-- ==== Sys2Proof/Word.lean ====
section
/-! DEFINITION. Word types of the machine and the operand forms an instruction can carry. -/

namespace Sys2Proof

/-- A u8 (spec 00 R9): registers, memory cells. -/
abbrev Byte := BitVec 8

/-- A u16: CPU addresses and the program counter (00 R9, 20 R70). -/
abbrev Addr := BitVec 16

/-- The addressing modes that carry an operand (30 R127). The implicit and the relative mode
belong to single instructions and are part of their constructors. -/
inductive AddrMode where
  /-- accumulator (R131) -/
  | acc
  /-- immediate value b1 (R132) -/
  | imm (v : Byte)
  /-- zero-page address b1 (R133) -/
  | zp (a : Byte)
  /-- zero-page +X (R134) -/
  | zpx (a : Byte)
  /-- zero-page +Y (R135) -/
  | zpy (a : Byte)
  /-- absolute address b2:b1 (R136) -/
  | abs (a : Addr)
  /-- absolute +X (R137) -/
  | absx (a : Addr)
  /-- absolute +Y (R138) -/
  | absy (a : Addr)
  /-- indirect pointer b2:b1, JMP only (R139) -/
  | ind (p : Addr)
  /-- indexed-indirect, pointer base b1 (R140) -/
  | izx (p : Byte)
  /-- indirect-indexed, pointer b1 (R141) -/
  | izy (p : Byte)
  deriving DecidableEq, Repr

/-- The names of the modes above, without their operand bytes. -/
inductive ModeName where
  | acc | imm | zp | zpx | zpy | abs | absx | absy | ind | izx | izy
  deriving DecidableEq, Repr

end Sys2Proof
end

