-- ==== Sys2Proof/Syntax.lean ====
section
/-! DEFINITION. The instructions. A constructor stands for the rows of spec/opcode_table.json with one
mnemonic and one rule; its fields (an operand form, or the opcode byte where several bytes have the same
mnemonic and mode) choose the row, so a well-formed instruction less its operand bytes is one row (log 12). -/

namespace Sys2Proof

inductive Instr where
  -- loads, stores and transfers (40)
  | lda (m : AddrMode)
  | ldx (m : AddrMode)
  | ldy (m : AddrMode)
  | sta (m : AddrMode)
  | stx (m : AddrMode)
  | sty (m : AddrMode)
  | tax
  | tay
  | txa
  | tya
  | tsx
  | txs
  -- stack (41)
  | pha
  | php
  | pla
  | plp
  -- arithmetic and logic (42)
  | adc (m : AddrMode)
  | sbc (m : AddrMode)
  | and (m : AddrMode)
  | ora (m : AddrMode)
  | eor (m : AddrMode)
  | bit (m : AddrMode)
  | cmp (m : AddrMode)
  | cpx (m : AddrMode)
  | cpy (m : AddrMode)
  | inc (m : AddrMode)
  | dec (m : AddrMode)
  | inx
  | iny
  | dex
  | dey
  -- shifts and rotates (43)
  | asl (m : AddrMode)
  | lsr (m : AddrMode)
  | rol (m : AddrMode)
  | ror (m : AddrMode)
  -- control transfer (44); a branch carries its offset byte
  | jmp (m : AddrMode)
  | jsr (target : Addr)
  | rts
  | rti
  | brk
  | bpl (off : Byte)
  | bmi (off : Byte)
  | bvc (off : Byte)
  | bvs (off : Byte)
  | bcc (off : Byte)
  | bcs (off : Byte)
  | bne (off : Byte)
  | beq (off : Byte)
  -- flags and the official NOP (45)
  | clc
  | sec
  | cli
  | sei
  | clv
  | cld
  | sed
  | nop
  -- illegal opcodes (46)
  | lax (m : AddrMode)
  | sax (m : AddrMode)
  | slo (m : AddrMode)
  | rla (m : AddrMode)
  | sre (m : AddrMode)
  | rra (m : AddrMode)
  | dcp (m : AddrMode)
  | isb (m : AddrMode)
  | sbcEB (v : Byte)
  | nopImp (op : Byte)
  | nopImm (op v : Byte)
  | nopZp (op a : Byte)
  | nopZpx (op a : Byte)
  | nopAbs (a : Addr)
  | nopAbsx (op : Byte) (a : Addr)
  -- unimplemented opcodes (46 R376)
  | jam (op : Byte)
  | anc (op : Byte)
  | alr
  | arr
  | xaa
  | lxa
  | axs
  | ahx (op : Byte)
  | tas
  | shy
  | shx
  | las
  deriving DecidableEq, Repr

end Sys2Proof
end

