-- ==== Sys2Proof/WellFormed.lean ====
section
/-! DEFINITION. Which operand forms and opcode bytes an instruction may carry: the "Operands" and
"Encoding" lines of the instruction rules of spec files 40 to 46. -/

namespace Sys2Proof

/-- The name of a mode. -/
def AddrMode.name : AddrMode → ModeName
  | .acc => .acc
  | .imm _ => .imm
  | .zp _ => .zp
  | .zpx _ => .zpx
  | .zpy _ => .zpy
  | .abs _ => .abs
  | .absx _ => .absx
  | .absy _ => .absy
  | .ind _ => .ind
  | .izx _ => .izx
  | .izy _ => .izy

/-- LDA, ADC, SBC, AND, ORA, EOR, CMP (R201, R250–R254, R256). -/
def modesAlu : List ModeName := [.imm, .zp, .zpx, .abs, .absx, .absy, .izx, .izy]
/-- LDX (R202) -/
def modesLdx : List ModeName := [.imm, .zp, .zpy, .abs, .absy]
/-- LDY (R203) -/
def modesLdy : List ModeName := [.imm, .zp, .zpx, .abs, .absx]
/-- STA (R204) -/
def modesSta : List ModeName := [.zp, .zpx, .abs, .absx, .absy, .izx, .izy]
/-- STX (R205) -/
def modesStx : List ModeName := [.zp, .zpy, .abs]
/-- STY (R206) -/
def modesSty : List ModeName := [.zp, .zpx, .abs]
/-- BIT (R255) -/
def modesBit : List ModeName := [.zp, .abs]
/-- CPX, CPY (R257, R258) -/
def modesCpx : List ModeName := [.imm, .zp, .abs]
/-- INC, DEC (R259, R260) -/
def modesInc : List ModeName := [.zp, .zpx, .abs, .absx]
/-- ASL, LSR, ROL, ROR (R291–R294) -/
def modesShift : List ModeName := [.acc, .zp, .zpx, .abs, .absx]
/-- JMP (R310) -/
def modesJmp : List ModeName := [.abs, .ind]
/-- LAX (R361) -/
def modesLax : List ModeName := [.zp, .zpy, .abs, .absy, .izx, .izy]
/-- SAX (R362) -/
def modesSax : List ModeName := [.zp, .zpy, .abs, .izx]
/-- SLO, RLA, SRE, RRA, DCP, ISB (R363–R368) -/
def modesRmw : List ModeName := [.zp, .zpx, .abs, .absx, .absy, .izx, .izy]

/-- The mode is among those the instruction has. -/
def AddrMode.isIn (m : AddrMode) (ms : List ModeName) : Bool := ms.contains m.name

/-- The illegal one-byte NOPs (R370). -/
def opsNopImp : List Byte := [0x1A, 0x3A, 0x5A, 0x7A, 0xDA, 0xFA]
/-- The illegal immediate NOPs (R371). -/
def opsNopImm : List Byte := [0x80, 0x82, 0x89, 0xC2, 0xE2]
/-- The illegal zero-page NOPs (R372). -/
def opsNopZp : List Byte := [0x04, 0x44, 0x64]
/-- The illegal zero-page +X NOPs (R373). -/
def opsNopZpx : List Byte := [0x14, 0x34, 0x54, 0x74, 0xD4, 0xF4]
/-- The illegal absolute +X NOPs (R375). -/
def opsNopAbsx : List Byte := [0x1C, 0x3C, 0x5C, 0x7C, 0xDC, 0xFC]
/-- The twelve opcodes that halt a real NMOS 6502 (R376). -/
def opsJam : List Byte :=
  [0x02, 0x12, 0x22, 0x32, 0x42, 0x52, 0x62, 0x72, 0x92, 0xB2, 0xD2, 0xF2]
/-- ANC (R376) -/
def opsAnc : List Byte := [0x0B, 0x2B]
/-- AHX (R376) -/
def opsAhx : List Byte := [0x93, 0x9F]

/-- The check of one instruction. -/
def Instr.wellFormed : Instr → Bool
  | .lda m => m.isIn modesAlu
  | .ldx m => m.isIn modesLdx
  | .ldy m => m.isIn modesLdy
  | .sta m => m.isIn modesSta
  | .stx m => m.isIn modesStx
  | .sty m => m.isIn modesSty
  | .adc m => m.isIn modesAlu
  | .sbc m => m.isIn modesAlu
  | .and m => m.isIn modesAlu
  | .ora m => m.isIn modesAlu
  | .eor m => m.isIn modesAlu
  | .bit m => m.isIn modesBit
  | .cmp m => m.isIn modesAlu
  | .cpx m => m.isIn modesCpx
  | .cpy m => m.isIn modesCpx
  | .inc m => m.isIn modesInc
  | .dec m => m.isIn modesInc
  | .asl m => m.isIn modesShift
  | .lsr m => m.isIn modesShift
  | .rol m => m.isIn modesShift
  | .ror m => m.isIn modesShift
  | .jmp m => m.isIn modesJmp
  | .lax m => m.isIn modesLax
  | .sax m => m.isIn modesSax
  | .slo m => m.isIn modesRmw
  | .rla m => m.isIn modesRmw
  | .sre m => m.isIn modesRmw
  | .rra m => m.isIn modesRmw
  | .dcp m => m.isIn modesRmw
  | .isb m => m.isIn modesRmw
  | .nopImp op => opsNopImp.contains op
  | .nopImm op _ => opsNopImm.contains op
  | .nopZp op _ => opsNopZp.contains op
  | .nopZpx op _ => opsNopZpx.contains op
  | .nopAbsx op _ => opsNopAbsx.contains op
  | .jam op => opsJam.contains op
  | .anc op => opsAnc.contains op
  | .ahx op => opsAhx.contains op
  | .tax | .tay | .txa | .tya | .tsx | .txs | .pha | .php | .pla | .plp
  | .inx | .iny | .dex | .dey | .jsr _ | .rts | .rti | .brk
  | .bpl _ | .bmi _ | .bvc _ | .bvs _ | .bcc _ | .bcs _ | .bne _ | .beq _
  | .clc | .sec | .cli | .sei | .clv | .cld | .sed | .nop | .sbcEB _ | .nopAbs _
  | .alr | .arr | .xaa | .lxa | .axs | .tas | .shy | .shx | .las => true

/-- A well-formed instruction: one the encoding of spec 30 has. -/
abbrev Instr.WellFormed (i : Instr) : Prop := i.wellFormed = true

end Sys2Proof
end

