-- ==== Sys2Proof/Decode.lean ====
section
/-! DEFINITION. The decoder (spec 30 R120, R121, R125, R150, R154), total on any bytes, and after it the
encoder, written from the "Encoding" lines of the instruction rules. -/

namespace Sys2Proof

/-- A 16-bit value from its two bytes, low byte first (20 R71). -/
def wordOf (lo hi : Byte) : Addr := hi ++ lo

/-- The low byte of a word. -/
def loByte (w : Addr) : Byte := w.extractLsb' 0 8

/-- The high byte of a word: its page. -/
def hiByte (w : Addr) : Byte := w.extractLsb' 8 8

/-- A cell of the opcode map: the instruction's length in bytes and the instruction made of the
operand bytes b1 and b2. -/
abbrev RowDecoder := Nat × (Byte → Byte → Instr)

/-- Format F1 (R120): no operand byte. -/
def one (i : Instr) : RowDecoder := (1, fun _ _ => i)

/-- Format F2: one operand byte. -/
def byteOp (f : Byte → Instr) : RowDecoder := (2, fun b1 _ => f b1)

/-- Format F3: an address, low byte first. -/
def wordOp (f : Addr → Instr) : RowDecoder := (3, fun b1 b2 => f (wordOf b1 b2))

/-! The opcode map of R150, one list for each row of the map. -/

/-- Opcodes $00 to $0F. -/
def opcodeRow0 : List RowDecoder :=
  [one .brk, byteOp (.ora <| .izx ·), one (.jam 0x02), byteOp (.slo <| .izx ·),
   byteOp (.nopZp 0x04), byteOp (.ora <| .zp ·), byteOp (.asl <| .zp ·), byteOp (.slo <| .zp ·),
   one .php, byteOp (.ora <| .imm ·), one (.asl .acc), one (.anc 0x0B),
   wordOp .nopAbs, wordOp (.ora <| .abs ·), wordOp (.asl <| .abs ·), wordOp (.slo <| .abs ·)]

/-- Opcodes $10 to $1F. -/
def opcodeRow1 : List RowDecoder :=
  [byteOp .bpl, byteOp (.ora <| .izy ·), one (.jam 0x12), byteOp (.slo <| .izy ·),
   byteOp (.nopZpx 0x14), byteOp (.ora <| .zpx ·), byteOp (.asl <| .zpx ·), byteOp (.slo <| .zpx ·),
   one .clc, wordOp (.ora <| .absy ·), one (.nopImp 0x1A), wordOp (.slo <| .absy ·),
   wordOp (.nopAbsx 0x1C), wordOp (.ora <| .absx ·), wordOp (.asl <| .absx ·), wordOp (.slo <| .absx ·)]

/-- Opcodes $20 to $2F. -/
def opcodeRow2 : List RowDecoder :=
  [wordOp .jsr, byteOp (.and <| .izx ·), one (.jam 0x22), byteOp (.rla <| .izx ·),
   byteOp (.bit <| .zp ·), byteOp (.and <| .zp ·), byteOp (.rol <| .zp ·), byteOp (.rla <| .zp ·),
   one .plp, byteOp (.and <| .imm ·), one (.rol .acc), one (.anc 0x2B),
   wordOp (.bit <| .abs ·), wordOp (.and <| .abs ·), wordOp (.rol <| .abs ·), wordOp (.rla <| .abs ·)]

/-- Opcodes $30 to $3F. -/
def opcodeRow3 : List RowDecoder :=
  [byteOp .bmi, byteOp (.and <| .izy ·), one (.jam 0x32), byteOp (.rla <| .izy ·),
   byteOp (.nopZpx 0x34), byteOp (.and <| .zpx ·), byteOp (.rol <| .zpx ·), byteOp (.rla <| .zpx ·),
   one .sec, wordOp (.and <| .absy ·), one (.nopImp 0x3A), wordOp (.rla <| .absy ·),
   wordOp (.nopAbsx 0x3C), wordOp (.and <| .absx ·), wordOp (.rol <| .absx ·), wordOp (.rla <| .absx ·)]

/-- Opcodes $40 to $4F. -/
def opcodeRow4 : List RowDecoder :=
  [one .rti, byteOp (.eor <| .izx ·), one (.jam 0x42), byteOp (.sre <| .izx ·),
   byteOp (.nopZp 0x44), byteOp (.eor <| .zp ·), byteOp (.lsr <| .zp ·), byteOp (.sre <| .zp ·),
   one .pha, byteOp (.eor <| .imm ·), one (.lsr .acc), one .alr,
   wordOp (.jmp <| .abs ·), wordOp (.eor <| .abs ·), wordOp (.lsr <| .abs ·), wordOp (.sre <| .abs ·)]

/-- Opcodes $50 to $5F. -/
def opcodeRow5 : List RowDecoder :=
  [byteOp .bvc, byteOp (.eor <| .izy ·), one (.jam 0x52), byteOp (.sre <| .izy ·),
   byteOp (.nopZpx 0x54), byteOp (.eor <| .zpx ·), byteOp (.lsr <| .zpx ·), byteOp (.sre <| .zpx ·),
   one .cli, wordOp (.eor <| .absy ·), one (.nopImp 0x5A), wordOp (.sre <| .absy ·),
   wordOp (.nopAbsx 0x5C), wordOp (.eor <| .absx ·), wordOp (.lsr <| .absx ·), wordOp (.sre <| .absx ·)]

/-- Opcodes $60 to $6F. -/
def opcodeRow6 : List RowDecoder :=
  [one .rts, byteOp (.adc <| .izx ·), one (.jam 0x62), byteOp (.rra <| .izx ·),
   byteOp (.nopZp 0x64), byteOp (.adc <| .zp ·), byteOp (.ror <| .zp ·), byteOp (.rra <| .zp ·),
   one .pla, byteOp (.adc <| .imm ·), one (.ror .acc), one .arr,
   wordOp (.jmp <| .ind ·), wordOp (.adc <| .abs ·), wordOp (.ror <| .abs ·), wordOp (.rra <| .abs ·)]

/-- Opcodes $70 to $7F. -/
def opcodeRow7 : List RowDecoder :=
  [byteOp .bvs, byteOp (.adc <| .izy ·), one (.jam 0x72), byteOp (.rra <| .izy ·),
   byteOp (.nopZpx 0x74), byteOp (.adc <| .zpx ·), byteOp (.ror <| .zpx ·), byteOp (.rra <| .zpx ·),
   one .sei, wordOp (.adc <| .absy ·), one (.nopImp 0x7A), wordOp (.rra <| .absy ·),
   wordOp (.nopAbsx 0x7C), wordOp (.adc <| .absx ·), wordOp (.ror <| .absx ·), wordOp (.rra <| .absx ·)]

/-- Opcodes $80 to $8F. -/
def opcodeRow8 : List RowDecoder :=
  [byteOp (.nopImm 0x80), byteOp (.sta <| .izx ·), byteOp (.nopImm 0x82), byteOp (.sax <| .izx ·),
   byteOp (.sty <| .zp ·), byteOp (.sta <| .zp ·), byteOp (.stx <| .zp ·), byteOp (.sax <| .zp ·),
   one .dey, byteOp (.nopImm 0x89), one .txa, one .xaa,
   wordOp (.sty <| .abs ·), wordOp (.sta <| .abs ·), wordOp (.stx <| .abs ·), wordOp (.sax <| .abs ·)]

/-- Opcodes $90 to $9F. -/
def opcodeRow9 : List RowDecoder :=
  [byteOp .bcc, byteOp (.sta <| .izy ·), one (.jam 0x92), one (.ahx 0x93),
   byteOp (.sty <| .zpx ·), byteOp (.sta <| .zpx ·), byteOp (.stx <| .zpy ·), byteOp (.sax <| .zpy ·),
   one .tya, wordOp (.sta <| .absy ·), one .txs, one .tas,
   one .shy, wordOp (.sta <| .absx ·), one .shx, one (.ahx 0x9F)]

/-- Opcodes $A0 to $AF. -/
def opcodeRowA : List RowDecoder :=
  [byteOp (.ldy <| .imm ·), byteOp (.lda <| .izx ·), byteOp (.ldx <| .imm ·), byteOp (.lax <| .izx ·),
   byteOp (.ldy <| .zp ·), byteOp (.lda <| .zp ·), byteOp (.ldx <| .zp ·), byteOp (.lax <| .zp ·),
   one .tay, byteOp (.lda <| .imm ·), one .tax, one .lxa,
   wordOp (.ldy <| .abs ·), wordOp (.lda <| .abs ·), wordOp (.ldx <| .abs ·), wordOp (.lax <| .abs ·)]

/-- Opcodes $B0 to $BF. -/
def opcodeRowB : List RowDecoder :=
  [byteOp .bcs, byteOp (.lda <| .izy ·), one (.jam 0xB2), byteOp (.lax <| .izy ·),
   byteOp (.ldy <| .zpx ·), byteOp (.lda <| .zpx ·), byteOp (.ldx <| .zpy ·), byteOp (.lax <| .zpy ·),
   one .clv, wordOp (.lda <| .absy ·), one .tsx, one .las,
   wordOp (.ldy <| .absx ·), wordOp (.lda <| .absx ·), wordOp (.ldx <| .absy ·), wordOp (.lax <| .absy ·)]

/-- Opcodes $C0 to $CF. -/
def opcodeRowC : List RowDecoder :=
  [byteOp (.cpy <| .imm ·), byteOp (.cmp <| .izx ·), byteOp (.nopImm 0xC2), byteOp (.dcp <| .izx ·),
   byteOp (.cpy <| .zp ·), byteOp (.cmp <| .zp ·), byteOp (.dec <| .zp ·), byteOp (.dcp <| .zp ·),
   one .iny, byteOp (.cmp <| .imm ·), one .dex, one .axs,
   wordOp (.cpy <| .abs ·), wordOp (.cmp <| .abs ·), wordOp (.dec <| .abs ·), wordOp (.dcp <| .abs ·)]

/-- Opcodes $D0 to $DF. -/
def opcodeRowD : List RowDecoder :=
  [byteOp .bne, byteOp (.cmp <| .izy ·), one (.jam 0xD2), byteOp (.dcp <| .izy ·),
   byteOp (.nopZpx 0xD4), byteOp (.cmp <| .zpx ·), byteOp (.dec <| .zpx ·), byteOp (.dcp <| .zpx ·),
   one .cld, wordOp (.cmp <| .absy ·), one (.nopImp 0xDA), wordOp (.dcp <| .absy ·),
   wordOp (.nopAbsx 0xDC), wordOp (.cmp <| .absx ·), wordOp (.dec <| .absx ·), wordOp (.dcp <| .absx ·)]

/-- Opcodes $E0 to $EF. -/
def opcodeRowE : List RowDecoder :=
  [byteOp (.cpx <| .imm ·), byteOp (.sbc <| .izx ·), byteOp (.nopImm 0xE2), byteOp (.isb <| .izx ·),
   byteOp (.cpx <| .zp ·), byteOp (.sbc <| .zp ·), byteOp (.inc <| .zp ·), byteOp (.isb <| .zp ·),
   one .inx, byteOp (.sbc <| .imm ·), one .nop, byteOp .sbcEB,
   wordOp (.cpx <| .abs ·), wordOp (.sbc <| .abs ·), wordOp (.inc <| .abs ·), wordOp (.isb <| .abs ·)]

/-- Opcodes $F0 to $FF. -/
def opcodeRowF : List RowDecoder :=
  [byteOp .beq, byteOp (.sbc <| .izy ·), one (.jam 0xF2), byteOp (.isb <| .izy ·),
   byteOp (.nopZpx 0xF4), byteOp (.sbc <| .zpx ·), byteOp (.inc <| .zpx ·), byteOp (.isb <| .zpx ·),
   one .sed, wordOp (.sbc <| .absy ·), one (.nopImp 0xFA), wordOp (.isb <| .absy ·),
   wordOp (.nopAbsx 0xFC), wordOp (.sbc <| .absx ·), wordOp (.inc <| .absx ·), wordOp (.isb <| .absx ·)]

/-- The opcode map (R150). -/
def opcodeMap : List (List RowDecoder) :=
  [opcodeRow0, opcodeRow1, opcodeRow2, opcodeRow3, opcodeRow4, opcodeRow5, opcodeRow6, opcodeRow7]
  ++ [opcodeRow8, opcodeRow9, opcodeRowA, opcodeRowB, opcodeRowC, opcodeRowD, opcodeRowE, opcodeRowF]

/-- The map's cell of an opcode byte: row = high nibble, column = low nibble. Every byte has one
(R154), so the default of the look-up is never used. -/
def rowOf (op : Byte) : RowDecoder :=
  (opcodeMap.getD (op.toNat / 16) []).getD (op.toNat % 16) (one .nop)

/-- The length in bytes, a function of the opcode alone (R121). -/
def opLength (op : Byte) : Nat := (rowOf op).1

/-- The instruction of an opcode byte and its operand bytes; a byte past the length is not looked at. -/
def decodeOp (op b1 b2 : Byte) : Instr := (rowOf op).2 b1 b2

/-- Why bytes do not decode. Every opcode byte has a meaning, so only bytes can be missing. -/
inductive DecodeError where
  /-- there is no opcode byte -/
  | noOpcode
  /-- the opcode's operand bytes are not all there -/
  | missingOperand
  deriving DecidableEq, Repr

/-- The first instruction of the bytes, and the bytes after it. -/
def decode : List Byte → Except DecodeError (Instr × List Byte)
  | [] => .error .noOpcode
  | op :: rest =>
    if opLength op = 1 then .ok (decodeOp op 0 0, rest)
    else match rest with
      | [] => .error .missingOperand
      | b1 :: rest =>
        if opLength op = 2 then .ok (decodeOp op b1 0, rest)
        else match rest with
          | [] => .error .missingOperand
          | b2 :: rest => .ok (decodeOp op b1 b2, rest)

/-- The three bytes of a table word: bit 0 is the least significant bit of the first byte; the bits
from `nbits` up are 0. -/
def tableBytes (nbits w : Nat) : Byte × Byte × Byte :=
  let w := w % 2 ^ nbits
  (BitVec.ofNat 8 w, BitVec.ofNat 8 (w / 256), BitVec.ofNat 8 (w / 65536))

/-- The instruction the decoder reads from an instruction whose bits are `w`. -/
def decodeTableWord (nbits w : Nat) : Option Instr :=
  let b := tableBytes nbits w
  match decode [b.1, b.2.1, b.2.2] with
  | .ok (i, _) => some i
  | .error _ => none

/-! ### The encoder -/

/-- The operand bytes of a mode (R120). -/
def AddrMode.bytes : AddrMode → List Byte
  | .acc => []
  | .imm v => [v]
  | .zp a => [a]
  | .zpx a => [a]
  | .zpy a => [a]
  | .izx p => [p]
  | .izy p => [p]
  | .abs a => [loByte a, hiByte a]
  | .absx a => [loByte a, hiByte a]
  | .absy a => [loByte a, hiByte a]
  | .ind p => [loByte p, hiByte p]

/-- The length of an instruction with this operand form (R127). -/
def AddrMode.size : AddrMode → Nat
  | .acc => 1
  | .imm _ | .zp _ | .zpx _ | .zpy _ | .izx _ | .izy _ => 2
  | .abs _ | .absx _ | .absy _ | .ind _ => 3

/-- The opcode a rule's "Encoding" line gives for a mode: the codes stand in the order of the modes of
its "Operands" line. -/
def pick (ms : List ModeName) (codes : List Byte) (m : AddrMode) : Byte :=
  ((ms.zip codes).lookup m.name).getD 0

/-- The opcode byte of a well-formed instruction. -/
def Instr.opcode : Instr → Byte
  | .lda m => pick modesAlu [0xA9, 0xA5, 0xB5, 0xAD, 0xBD, 0xB9, 0xA1, 0xB1] m
  | .ldx m => pick modesLdx [0xA2, 0xA6, 0xB6, 0xAE, 0xBE] m
  | .ldy m => pick modesLdy [0xA0, 0xA4, 0xB4, 0xAC, 0xBC] m
  | .sta m => pick modesSta [0x85, 0x95, 0x8D, 0x9D, 0x99, 0x81, 0x91] m
  | .stx m => pick modesStx [0x86, 0x96, 0x8E] m
  | .sty m => pick modesSty [0x84, 0x94, 0x8C] m
  | .tax => 0xAA
  | .tay => 0xA8
  | .txa => 0x8A
  | .tya => 0x98
  | .tsx => 0xBA
  | .txs => 0x9A
  | .pha => 0x48
  | .php => 0x08
  | .pla => 0x68
  | .plp => 0x28
  | .adc m => pick modesAlu [0x69, 0x65, 0x75, 0x6D, 0x7D, 0x79, 0x61, 0x71] m
  | .sbc m => pick modesAlu [0xE9, 0xE5, 0xF5, 0xED, 0xFD, 0xF9, 0xE1, 0xF1] m
  | .and m => pick modesAlu [0x29, 0x25, 0x35, 0x2D, 0x3D, 0x39, 0x21, 0x31] m
  | .ora m => pick modesAlu [0x09, 0x05, 0x15, 0x0D, 0x1D, 0x19, 0x01, 0x11] m
  | .eor m => pick modesAlu [0x49, 0x45, 0x55, 0x4D, 0x5D, 0x59, 0x41, 0x51] m
  | .bit m => pick modesBit [0x24, 0x2C] m
  | .cmp m => pick modesAlu [0xC9, 0xC5, 0xD5, 0xCD, 0xDD, 0xD9, 0xC1, 0xD1] m
  | .cpx m => pick modesCpx [0xE0, 0xE4, 0xEC] m
  | .cpy m => pick modesCpx [0xC0, 0xC4, 0xCC] m
  | .inc m => pick modesInc [0xE6, 0xF6, 0xEE, 0xFE] m
  | .dec m => pick modesInc [0xC6, 0xD6, 0xCE, 0xDE] m
  | .inx => 0xE8
  | .iny => 0xC8
  | .dex => 0xCA
  | .dey => 0x88
  | .asl m => pick modesShift [0x0A, 0x06, 0x16, 0x0E, 0x1E] m
  | .lsr m => pick modesShift [0x4A, 0x46, 0x56, 0x4E, 0x5E] m
  | .rol m => pick modesShift [0x2A, 0x26, 0x36, 0x2E, 0x3E] m
  | .ror m => pick modesShift [0x6A, 0x66, 0x76, 0x6E, 0x7E] m
  | .jmp m => pick modesJmp [0x4C, 0x6C] m
  | .jsr _ => 0x20
  | .rts => 0x60
  | .rti => 0x40
  | .brk => 0x00
  | .bpl _ => 0x10
  | .bmi _ => 0x30
  | .bvc _ => 0x50
  | .bvs _ => 0x70
  | .bcc _ => 0x90
  | .bcs _ => 0xB0
  | .bne _ => 0xD0
  | .beq _ => 0xF0
  | .clc => 0x18
  | .sec => 0x38
  | .cli => 0x58
  | .sei => 0x78
  | .clv => 0xB8
  | .cld => 0xD8
  | .sed => 0xF8
  | .nop => 0xEA
  | .lax m => pick modesLax [0xA7, 0xB7, 0xAF, 0xBF, 0xA3, 0xB3] m
  | .sax m => pick modesSax [0x87, 0x97, 0x8F, 0x83] m
  | .slo m => pick modesRmw [0x07, 0x17, 0x0F, 0x1F, 0x1B, 0x03, 0x13] m
  | .rla m => pick modesRmw [0x27, 0x37, 0x2F, 0x3F, 0x3B, 0x23, 0x33] m
  | .sre m => pick modesRmw [0x47, 0x57, 0x4F, 0x5F, 0x5B, 0x43, 0x53] m
  | .rra m => pick modesRmw [0x67, 0x77, 0x6F, 0x7F, 0x7B, 0x63, 0x73] m
  | .dcp m => pick modesRmw [0xC7, 0xD7, 0xCF, 0xDF, 0xDB, 0xC3, 0xD3] m
  | .isb m => pick modesRmw [0xE7, 0xF7, 0xEF, 0xFF, 0xFB, 0xE3, 0xF3] m
  | .sbcEB _ => 0xEB
  | .nopImp op => op
  | .nopImm op _ => op
  | .nopZp op _ => op
  | .nopZpx op _ => op
  | .nopAbs _ => 0x0C
  | .nopAbsx op _ => op
  | .jam op => op
  | .anc op => op
  | .alr => 0x4B
  | .arr => 0x6B
  | .xaa => 0x8B
  | .lxa => 0xAB
  | .axs => 0xCB
  | .ahx op => op
  | .tas => 0x9B
  | .shy => 0x9C
  | .shx => 0x9E
  | .las => 0xBB

/-- The operand bytes of an instruction. -/
def Instr.operandBytes : Instr → List Byte
  | .lda m | .ldx m | .ldy m | .sta m | .stx m | .sty m | .adc m | .sbc m | .and m | .ora m | .eor m
  | .bit m | .cmp m | .cpx m | .cpy m | .inc m | .dec m | .asl m | .lsr m | .rol m | .ror m | .jmp m
  | .lax m | .sax m | .slo m | .rla m | .sre m | .rra m | .dcp m | .isb m => m.bytes
  | .jsr a | .nopAbs a | .nopAbsx _ a => [loByte a, hiByte a]
  | .bpl v | .bmi v | .bvc v | .bvs v | .bcc v | .bcs v | .bne v | .beq v
  | .sbcEB v | .nopImm _ v | .nopZp _ v | .nopZpx _ v => [v]
  | .tax | .tay | .txa | .tya | .tsx | .txs | .pha | .php | .pla | .plp
  | .inx | .iny | .dex | .dey | .rts | .rti | .brk
  | .clc | .sec | .cli | .sei | .clv | .cld | .sed | .nop
  | .nopImp _ | .jam _ | .anc _ | .alr | .arr | .xaa | .lxa | .axs | .ahx _
  | .tas | .shy | .shx | .las => []

/-- The bytes of an instruction: opcode, then operand bytes (R120). -/
def encode (i : Instr) : List Byte := i.opcode :: i.operandBytes

/-- The length of an instruction in bytes (R120, R155). -/
def Instr.length : Instr → Nat
  | .lda m | .ldx m | .ldy m | .sta m | .stx m | .sty m | .adc m | .sbc m | .and m | .ora m | .eor m
  | .bit m | .cmp m | .cpx m | .cpy m | .inc m | .dec m | .asl m | .lsr m | .rol m | .ror m | .jmp m
  | .lax m | .sax m | .slo m | .rla m | .sre m | .rra m | .dcp m | .isb m => m.size
  | .jsr _ | .nopAbs _ | .nopAbsx _ _ => 3
  | .bpl _ | .bmi _ | .bvc _ | .bvs _ | .bcc _ | .bcs _ | .bne _ | .beq _
  | .sbcEB _ | .nopImm _ _ | .nopZp _ _ | .nopZpx _ _ => 2
  | .tax | .tay | .txa | .tya | .tsx | .txs | .pha | .php | .pla | .plp
  | .inx | .iny | .dex | .dey | .rts | .rti | .brk
  | .clc | .sec | .cli | .sei | .clv | .cld | .sed | .nop
  | .nopImp _ | .jam _ | .anc _ | .alr | .arr | .xaa | .lxa | .axs | .ahx _
  | .tas | .shy | .shx | .las => 1

end Sys2Proof
end

