-- ==== Sys2Proof/Config.lean ====
section
/-! DEFINITION. What an implementation fixes (the parameters of spec 00 R8) and the free values the
spec leaves open (00 R14, 93 Part 1). An `opaque` constant has no body: no proof can see its value. -/

namespace Sys2Proof

/-- Nametable mirroring modes (61 R542). A header gives one of the first three (63 R703); a mapper's
override may give any of the five (63 R716). -/
inductive Mirroring where
  | horizontal | vertical | fourScreen | singleLower | singleUpper
  deriving DecidableEq, Repr, Inhabited

/-- A mapper's own registers (63 R713), split as 63 R717 does: a render snapshot holds the banking
registers and leaves the IRQ counters alone. -/
structure MapperRegs where
  bank : List Byte
  irq  : List Byte
  deriving DecidableEq, Repr, Inhabited

/-- `UnimplPolicy` (92 D12). -/
inductive UnimplPolicy where
  | nop2 | refuse
  deriving DecidableEq, Repr

namespace Config

/-! ### Parameters the spec gives a value -/

/-- 92 D12: the spec's choice is `nop2`. Log 5. -/
def unimplPolicy : UnimplPolicy := .nop2

/-- 92 D5: default false. Log 5. -/
def nmiOnLateEnable : Bool := false

/-- 92 D24: default false. Log 5. -/
def spriteZeroNeedsSpritePixel : Bool := false

/-- 62 R682: `CpuHz`, NTSC. -/
def cpuHz : Nat := 1789773

/-! ### Open parameters -/

/-- DEDUCED lower bound of `OpenBusDecayDots`: one frame of dots (61 R530). Log 7. -/
def openBusDecayMin : Nat := 89342

/-- The open part of `OpenBusDecayDots` (61 R521, 92 D31). -/
opaque openBusDecayExtra : Nat

/-- `OpenBusDecayDots`: "roughly one video-chip-clock second", at least one frame. Log 7. -/
def openBusDecayDots : Nat := openBusDecayMin + openBusDecayExtra

/-- `PaletteRGB` (61 R558): red, green and blue of each of the 64 palette values. Log 8. -/
opaque paletteRGB : BitVec 6 → Byte × Byte × Byte

/-- `SampleRate` (62 R682). DESIGN CHOICE: the spec gives the parameter no type; here it is a whole number
of hertz. Log 8. -/
opaque sampleRate : Nat

/-- `AudioRingCapacity` (62 R682). Log 8. -/
opaque audioRingCapacity : Nat

/-- Numerator and gap of `DcCoeff`. Log 8. -/
opaque dcNum : Nat
opaque dcGap : Nat

/-- `DcCoeff` (62 R681): a fraction that is strictly between 0 and 1 whatever the open parts are. -/
def dcCoeff : Rat := ((dcNum + 1 : Nat) : Rat) / ((dcNum + dcGap + 2 : Nat) : Rat)

/-- `InstructionCap` (60 R425). Log 8. -/
opaque instructionCap : Nat

/-! ### Free values (00 R14) -/

/-- `draw u8` number `n`: an unconstrained byte. Log 1. -/
opaque freeByte : Nat → Byte

/-- The byte a PPU read of unmapped character memory gives (61 R541): the draw stamped `stamp`, of the
read at `site` within it, at address `a`. Log 1. -/
opaque unmappedChr : (stamp site a : Nat) → Byte

/-- The byte at `a` of a memory whose contents are unspecified since the draw `stamp`
(61 R506, 63 R707): one draw a byte, stable until written. Log 2. -/
opaque unspecifiedByte : (stamp a : Nat) → Byte

/-! ### Mappers other than mapper 0 (`MapperSet`, 63 R713–R721). The first argument is the mapper
number. An index one of them gives is taken modulo the memory's size where it is used (63 R718).
Log 6. -/

/-- Whether `MapperSet` holds this mapper number besides 0. -/
opaque mapperSupported : Byte → Bool
/-- PRG banking granularity in bytes (63 R708). -/
opaque mapperPrgGranularity : Byte → Nat
/-- CHR banking granularity in bytes (63 R708). -/
opaque mapperChrGranularity : Byte → Nat
/-- Power-on register values (63 R719). -/
opaque mapperPowerOn : Byte → MapperRegs
/-- `mapCpuRead` -/
opaque mapCpuRead : Byte → MapperRegs → (prgSize : Nat) → Addr → Option Nat
/-- `mapCpuWrite`: the registers after the write; the index it returns is discarded (20 R81). -/
opaque mapCpuWrite : Byte → MapperRegs → Addr → Byte → MapperRegs
/-- `mapPpuRead` -/
opaque mapPpuRead : Byte → MapperRegs → (chrSize : Nat) → BitVec 14 → Option Nat
/-- `mapPpuWrite` -/
opaque mapPpuWrite : Byte → MapperRegs → (chrSize : Nat) → BitVec 14 → Option Nat
/-- `cpuReadRegister`: the byte and the registers after the read, if claimed (63 R714, 20 R88). -/
opaque cpuReadRegister : Byte → MapperRegs → Addr → Option (Byte × MapperRegs)
/-- `cpuWriteRegister`: the registers after the write, if claimed (63 R714). -/
opaque cpuWriteRegister : Byte → MapperRegs → Addr → Byte → Option MapperRegs
/-- `onPpuScanline` (63 R715) -/
opaque onPpuScanline : Byte → MapperRegs → Nat → MapperRegs
/-- `onCpuCycles` (63 R715) -/
opaque onCpuCycles : Byte → MapperRegs → Nat → MapperRegs
/-- `irq` (63 R715) -/
opaque mapperIrq : Byte → MapperRegs → Bool
/-- `getMirroringOverride` (63 R716) -/
opaque mirroringOverride : Byte → MapperRegs → Option Mirroring
/-- `mapPpuNametable` (63 R716) -/
opaque mapPpuNametable : Byte → MapperRegs → BitVec 14 → Option Nat
/-- Whether the mapper has the render-state hooks (63 R717). -/
opaque hasRenderState : Byte → Bool

end Config
end Sys2Proof
end

