-- ==== Sys2Proof/Machine/State.lean ====
section
/-! DEFINITION. Everything the spec gives the machine (10 R47, R49; 61 R500; 62 R600–R607; 63 R700, R740),
as plain data, the reasons a step or a load can stop, and the machine right after reset. -/

namespace Sys2Proof.Machine

/-! ### Memories -/

/-- What the bytes that nothing has written read as. -/
inductive Fill where
  /-- every byte is $00 (70 R804), and ROM bytes that are $00 -/
  | zero
  /-- contents unspecified: the stable draw `stamp` (61 R506, 63 R707). Log 2. -/
  | drawn (stamp : Nat)
  deriving DecidableEq, Repr

/-- A memory: the listed cells, by rising address, over its fill. `Memory.wf` is its canonical form. -/
structure Memory where
  fill  : Fill
  cells : List Host.Cell
  deriving DecidableEq, Repr

/-! ### Processor -/

/-- The stored flags of P (10 R34). Bits 5 (U) and 4 (B) are not stored (10 R39, R40). -/
structure Flags where
  n : Bool
  v : Bool
  d : Bool
  i : Bool
  z : Bool
  c : Bool
  deriving DecidableEq, Repr

/-! ### Video chip -/

/-- A per-scanline snapshot (61 R555). -/
structure Snapshot where
  ctrl   : Byte
  mask   : Byte
  t      : BitVec 15
  x      : BitVec 3
  /-- the mapper's render state, if it has the hook (63 R717) -/
  mapper : Option (List Byte)
  deriving DecidableEq, Repr

/-- One pixel of the frame buffer (61 R558). -/
structure Pixel where
  r : Byte
  g : Byte
  b : Byte
  a : Byte
  deriving DecidableEq, Repr

/-- The frame buffer (61 R558): unspecified before the first `RenderFrame` (61 R506), then the 240 rows
of 256 pixels of the last one. -/
inductive Frame where
  | unspecified (stamp : Nat)
  | drawn (rows : List (List Pixel))
  deriving DecidableEq, Repr

/-- The video chip (61 R500). -/
structure Ppu where
  ctrl : Byte
  mask : Byte
  vblank : Bool
  spriteZeroHit : Bool
  spriteOverflow : Bool
  oamAddr : Byte
  oam : Memory
  v : BitVec 15
  t : BitVec 15
  x : BitVec 3
  w : Bool
  readBuffer : Byte
  palette : Memory
  ciram : Memory
  ob : Byte
  ageLo : Nat
  ageB5 : Nat
  ageHi : Nat
  scanline : Nat
  dot : Nat
  snap : List Snapshot
  pulseVblankStart : Bool
  pulseFrameStart : Bool
  frame : Frame
  deriving DecidableEq, Repr

/-! ### Audio chip -/

/-- An envelope unit (62 R601, R603, R641). -/
structure Envelope where
  start   : Bool
  divider : BitVec 4
  decay   : BitVec 4
  deriving DecidableEq, Repr

/-- A pulse channel (62 R601). -/
structure Pulse where
  enabled   : Bool
  duty      : BitVec 2
  dutyPos   : BitVec 3
  halt      : Bool
  constVol  : Bool
  vol       : BitVec 4
  env       : Envelope
  swEnabled : Bool
  swPeriod  : BitVec 3
  swNegate  : Bool
  swShift   : BitVec 3
  swDivider : BitVec 3
  swReload  : Bool
  period    : BitVec 11
  timer     : BitVec 11
  length    : Byte
  deriving DecidableEq, Repr

/-- The triangle channel (62 R602). -/
structure Triangle where
  enabled      : Bool
  control      : Bool
  linReloadVal : BitVec 7
  linear       : BitVec 7
  linReload    : Bool
  period       : BitVec 11
  timer        : BitVec 11
  seqPos       : BitVec 5
  length       : Byte
  deriving DecidableEq, Repr

/-- The noise channel (62 R603). -/
structure Noise where
  enabled   : Bool
  halt      : Bool
  constVol  : Bool
  vol       : BitVec 4
  env       : Envelope
  mode      : Bool
  periodIdx : BitVec 4
  timer     : BitVec 12
  shift     : BitVec 15
  length    : Byte
  deriving DecidableEq, Repr

/-- The delta channel (62 R604). -/
structure Dmc where
  irqEnable : Bool
  loop      : Bool
  rateIdx   : BitVec 4
  timer     : BitVec 9
  level     : BitVec 7
  addrReg   : Byte
  lenReg    : Byte
  curAddr   : Addr
  remaining : BitVec 12
  buffer    : Option Byte
  shifter   : Byte
  bitsLeft  : Nat
  silence   : Bool
  deriving DecidableEq, Repr

/-- The frame sequencer (62 R605): `mode` true is the 5-step mode. -/
structure FrameSequencer where
  mode       : Bool
  irqInhibit : Bool
  counter    : Nat
  deriving DecidableEq, Repr

/-- The output stage (62 R606), in exact rationals (62 R680: any real-valued format). -/
structure OutputStage where
  fPrevIn  : Rat
  fPrevOut : Rat
  rsAcc    : Rat
  ring     : List (Rat × Rat)
  deriving DecidableEq, Repr

/-- The audio chip (62 R600). -/
structure Apu where
  pulse1    : Pulse
  pulse2    : Pulse
  tri       : Triangle
  noise     : Noise
  dmc       : Dmc
  fs        : FrameSequencer
  frameIrq  : Bool
  dmcIrq    : Bool
  out       : OutputStage
  apuCycles : Nat
  deriving DecidableEq, Repr

/-! ### Cartridge and joypads -/

/-- The cartridge (63 R700) with its mapper's registers (63 R713); mapper 0 has none (63 R720). -/
structure Cartridge where
  prgSize       : Nat
  prgRom        : Memory
  chrSize       : Nat
  chr           : Memory
  chrIsRam      : Bool
  mirroring     : Mirroring
  battery       : Bool
  headerVariant : BitVec 2
  mapperId      : Byte
  regs          : MapperRegs
  deriving DecidableEq, Repr

/-- One joypad (63 R740). -/
structure Pad where
  buttons : Byte
  shift   : Byte
  count   : Nat
  deriving DecidableEq, Repr

/-- The two joypads and their shared strobe (63 R740). -/
structure Pads where
  strobe : Bool
  pad0   : Pad
  pad1   : Pad
  deriving DecidableEq, Repr

/-! ### The machine -/

/-- The whole machine between two steps. -/
structure State where
  a : Byte
  x : Byte
  y : Byte
  sp : Byte
  p : Flags
  pc : Addr
  cycles : Nat
  nmiPending : Bool
  irqLine : Bool
  ram : Memory
  prgRam : Memory
  ppu : Ppu
  apu : Apu
  /-- none before the first successful load (63 R700) -/
  cart : Option Cartridge
  pads : Pads
  /-- the model's own counter of free values taken (log 1) -/
  draws : Nat
  deriving DecidableEq, Repr

/-- Why a host load fails (63 R702, R708; 93 U9). No instruction and no step raises one of these
(60 R409). Each is safe: the spec names the error, and the machine is left as it was (63 R712). -/
inductive Fault where
  /-- the file is under 16 bytes; raised by `State.load`; safe -/
  | tooShort
  /-- the magic bytes are wrong; raised by `State.load`; safe -/
  | badMagic
  /-- the declared sizes exceed the file; raised by `State.load`; safe -/
  | truncated
  /-- the mapper number is not in `MapperSet`; raised by `State.load`; safe -/
  | unsupportedMapper (id : Byte)
  /-- a size is zero or no multiple of the mapper's granularity; raised by `State.load`; safe -/
  | badSize (n : Nat)
  deriving DecidableEq, Repr

/-- Why the model gives a step no meaning. -/
inductive Refusal where
  /-- an instruction without a meaning, refused in `exec`'s arm; safe. No arm is one today. -/
  | notModelled (mnemonic : String)
  /-- no cartridge is loaded: not a state the spec defines (63 R700, 92 D57, 93 U8); raised by `step`
  and by `State.hardReset`; safe -/
  | noCartridge
  /-- an unimplemented opcode under `UnimplPolicy = refuse` (46 R376); raised by those opcodes'
  meanings under that policy alone, which is not the model's; safe -/
  | unimplementedOpcode (op : Byte)
  deriving DecidableEq, Repr

/-! ### Reset values -/

/-- A pulse channel after reset (70 R806). -/
def Pulse.reset : Pulse where
  enabled := false
  duty := 0
  dutyPos := 0
  halt := false
  constVol := false
  vol := 0
  env := ⟨false, 0, 0⟩
  swEnabled := false
  swPeriod := 0
  swNegate := false
  swShift := 0
  swDivider := 0
  swReload := false
  period := 0
  timer := 0
  length := 0

/-- The audio chip after reset (70 R806): all 0 but `noise.shift = 1`. -/
def Apu.reset : Apu where
  pulse1 := Pulse.reset
  pulse2 := Pulse.reset
  tri := ⟨false, false, 0, 0, false, 0, 0, 0, 0⟩
  noise := ⟨false, false, false, 0, ⟨false, 0, 0⟩, false, 0, 0, 1, 0⟩
  dmc := ⟨false, false, 0, 0, 0, 0, 0, 0, 0, none, 0, 0, false⟩
  fs := ⟨false, false, 0⟩
  frameIrq := false
  dmcIrq := false
  out := ⟨0, 0, 0, []⟩
  apuCycles := 0

/-- The video chip after reset (70 R805); the unspecified memories take the stamps from `stamp` on
(log 2), and `mapper` is the mapper's reset snapshot. -/
def Ppu.reset (stamp : Nat) (mapper : Option (List Byte)) : Ppu where
  ctrl := 0
  mask := 0
  vblank := false
  spriteZeroHit := false
  spriteOverflow := false
  oamAddr := 0
  oam := ⟨.drawn stamp, []⟩
  v := 0
  t := 0
  x := 0
  w := false
  readBuffer := 0
  palette := ⟨.drawn (stamp + 1), []⟩
  ciram := ⟨.drawn (stamp + 2), []⟩
  ob := 0
  ageLo := 0
  ageB5 := 0
  ageHi := 0
  scanline := 0
  dot := 0
  snap := List.replicate 240 ⟨0, 0, 0, 0, mapper⟩
  pulseVblankStart := false
  pulseFrameStart := false
  frame := .unspecified (stamp + 3)

/-- The machine right after reset with no cartridge loaded: every field as 70 R801–R808 say. PC has no
vector to come from, so it is $0000, and no button is pressed (log 3); the draw counter stands past the
stamps taken (log 1). -/
def State.reset : State where
  a := 0
  x := 0
  y := 0
  sp := 0xFD
  p := { n := false, v := false, d := false, i := true, z := false, c := false }
  pc := 0
  cycles := 7
  nmiPending := false
  irqLine := false
  ram := ⟨.zero, []⟩
  prgRam := ⟨.zero, []⟩
  ppu := Ppu.reset 0 none
  apu := Apu.reset
  cart := none
  pads := ⟨false, ⟨0, 0, 0⟩, ⟨0, 0, 0⟩⟩
  draws := 5

end Sys2Proof.Machine
end

