-- ==== Sys2Proof/Machine/Memory.lean ====
section
/-! DEFINITION. Memories: what an unlisted byte reads as, reading and writing one byte, the canonical
form, and a memory made of a list of bytes. -/

namespace Sys2Proof.Machine

/-- What an unlisted address reads as: $00, or the byte of the draw taken for this memory. -/
def Fill.byteAt (f : Fill) (a : Nat) : Byte :=
  match f with
  | .zero => 0
  | .drawn stamp => Config.unspecifiedByte stamp a

/-- A byte that need not be listed: it equals the fill whatever the free values are. -/
def Fill.absorbs (f : Fill) (v : Byte) : Bool :=
  match f with
  | .zero => v == 0
  | .drawn _ => false

/-- The byte listed at an address. -/
def lookupCell (a : Nat) : List Host.Cell → Option Byte
  | [] => none
  | c :: cs => if c.1 = a then some c.2 else lookupCell a cs

/-- List a byte at its place. -/
def insertCell (a : Nat) (v : Byte) : List Host.Cell → List Host.Cell
  | [] => [(a, v)]
  | c :: cs =>
    if c.1 < a then c :: insertCell a v cs
    else if c.1 = a then (a, v) :: cs
    else (a, v) :: c :: cs

/-- Take an address out of the list. -/
def eraseCell (a : Nat) : List Host.Cell → List Host.Cell
  | [] => []
  | c :: cs => if c.1 = a then cs else c :: eraseCell a cs

/-- The byte at an address. -/
def Memory.read (m : Memory) (a : Nat) : Byte :=
  match lookupCell a m.cells with
  | some v => v
  | none => m.fill.byteAt a

/-- Write one byte, keeping the canonical form. -/
def Memory.write (m : Memory) (a : Nat) (v : Byte) : Memory :=
  { m with cells := if m.fill.absorbs v then eraseCell a m.cells else insertCell a v m.cells }

/-- Addresses rise strictly and are all at least `lo`. -/
def cellsRise (lo : Nat) : List Host.Cell → Bool
  | [] => true
  | c :: cs => decide (lo ≤ c.1) && cellsRise (c.1 + 1) cs

/-- The canonical form of a memory of `size` bytes: listed addresses rise strictly and lie inside it,
and no listed byte is one the fill absorbs. -/
def Memory.wf (size : Nat) (m : Memory) : Bool :=
  cellsRise 0 m.cells && m.cells.all fun c => decide (c.1 < size) && !m.fill.absorbs c.2

/-- The cells of consecutive bytes from `a` on, less the zeros. -/
def cellsOfBytes (a : Nat) : List Byte → List Host.Cell
  | [] => []
  | v :: vs => if v = 0 then cellsOfBytes (a + 1) vs else (a, v) :: cellsOfBytes (a + 1) vs

/-- A memory that holds the given bytes, the first at address 0. -/
def Memory.ofBytes (vs : List Byte) : Memory := ⟨.zero, cellsOfBytes 0 vs⟩

end Sys2Proof.Machine
end

