-- ==== Sys2Proof/Machine/Apu.lean ====
section
/-! DEFINITION. The audio chip but for its memory reader: register writes, the status read, the shared
units, the channels and the output stage (62). -/

namespace Sys2Proof.Machine

/-! ### Tables (62 R631–R635) -/

/-- `LengthTable` (62 R631). -/
def lengthTable : List Byte :=
  [10, 254, 20, 2, 40, 4, 80, 6, 160, 8, 60, 10, 14, 12, 26, 14]
  ++ [12, 16, 24, 18, 48, 20, 96, 22, 192, 24, 72, 26, 16, 28, 32, 30]

/-- The length a length-load write selects: index `val[7:3]`. -/
def lengthOf (v : Byte) : Byte := lengthTable.getD (v.toNat / 8) 0

/-- `DutyTable` (62 R632). -/
def dutyTable : List (List Bool) :=
  [[false, true, false, false, false, false, false, false],
   [false, true, true, false, false, false, false, false],
   [false, true, true, true, true, false, false, false],
   [true, false, false, true, true, true, true, true]]

/-- `TriTable` (62 R633). -/
def triTable : List Nat :=
  [15, 14, 13, 12, 11, 10, 9, 8, 7, 6, 5, 4, 3, 2, 1, 0]
  ++ [0, 1, 2, 3, 4, 5, 6, 7, 8, 9, 10, 11, 12, 13, 14, 15]

/-- `NoisePeriod` (62 R634). -/
def noisePeriod : List Nat :=
  [4, 8, 16, 32, 64, 96, 128, 160, 202, 254, 380, 508, 762, 1016, 2034, 4068]

/-- `DmcRate` (62 R635). -/
def dmcRate : List Nat :=
  [428, 380, 340, 320, 286, 254, 226, 214, 190, 160, 142, 128, 106, 84, 72, 54]

/-! ### Shared units -/

/-- An envelope on a quarter frame (62 R641). -/
def Envelope.clock (e : Envelope) (vol : BitVec 4) (loop : Bool) : Envelope :=
  if e.start then ⟨false, vol, 15⟩
  else if e.divider = 0 then
    ⟨false, vol, if e.decay = 0 then (if loop then 15 else 0) else e.decay - 1⟩
  else { e with divider := e.divider - 1 }

/-- A length counter on a half frame (62 R643). -/
def clockLength (length : Byte) (halt : Bool) : Byte :=
  if length = 0 ∨ halt then length else length - 1

/-- The sweep's target period (62 R642); pulse 1 negates by ones' complement. -/
def Pulse.sweepTarget (p : Pulse) (isPulse1 : Bool) : Int :=
  let change : Int := (p.period >>> p.swShift.toNat).toNat
  if !p.swNegate then p.period.toNat + change
  else if isPulse1 then p.period.toNat - change - 1
  else p.period.toNat - change

/-- `SweepMute` (62 R642). -/
def Pulse.sweepMute (p : Pulse) (isPulse1 : Bool) : Bool :=
  decide (p.period.toNat < 8) || decide (0x7FF < p.sweepTarget isPulse1)

/-- The sweep on a half frame (62 R642). -/
def Pulse.clockSweep (p : Pulse) (isPulse1 : Bool) : Pulse :=
  { p with
    period :=
      if p.swDivider = 0 ∧ p.swEnabled ∧ p.swShift ≠ 0 ∧ !p.sweepMute isPulse1 then
        BitVec.ofInt 11 (p.sweepTarget isPulse1)
      else p.period
    swDivider := if p.swDivider = 0 ∨ p.swReload then p.swPeriod else p.swDivider - 1
    swReload := if p.swDivider = 0 ∨ p.swReload then false else p.swReload }

/-- The triangle's linear counter on a quarter frame (62 R644). -/
def Triangle.clockLinear (t : Triangle) : Triangle :=
  { t with
    linear := if t.linReload then t.linReloadVal else if t.linear = 0 then 0 else t.linear - 1
    linReload := t.linReload && t.control }

/-- `QuarterFrame()` (62 R640): the envelopes and the linear counter. -/
def Apu.quarterFrame (u : Apu) : Apu :=
  { u with
    pulse1 := { u.pulse1 with env := u.pulse1.env.clock u.pulse1.vol u.pulse1.halt }
    pulse2 := { u.pulse2 with env := u.pulse2.env.clock u.pulse2.vol u.pulse2.halt }
    noise := { u.noise with env := u.noise.env.clock u.noise.vol u.noise.halt }
    tri := u.tri.clockLinear }

/-- A pulse channel on a half frame: its length counter and its sweep (62 R642, R643). -/
def Pulse.halfFrame (p : Pulse) (isPulse1 : Bool) : Pulse :=
  { p.clockSweep isPulse1 with length := clockLength p.length p.halt }

/-- `HalfFrame()` (62 R640): the four length counters and both sweeps. -/
def Apu.halfFrame (u : Apu) : Apu :=
  { u with
    pulse1 := u.pulse1.halfFrame true
    pulse2 := u.pulse2.halfFrame false
    tri := { u.tri with length := clockLength u.tri.length u.tri.control }
    noise := { u.noise with length := clockLength u.noise.length u.noise.halt } }

/-! ### Register writes (62 R610–R628) -/

/-- $4000 / $4004 (62 R614). -/
def Pulse.writeVolume (p : Pulse) (v : Byte) : Pulse :=
  { p with
    duty := v.extractLsb' 6 2
    halt := v.getLsbD 5
    constVol := v.getLsbD 4
    vol := v.setWidth 4 }

/-- $4001 / $4005 (62 R615). -/
def Pulse.writeSweep (p : Pulse) (v : Byte) : Pulse :=
  { p with
    swEnabled := v.getLsbD 7
    swPeriod := v.extractLsb' 4 3
    swNegate := v.getLsbD 3
    swShift := v.setWidth 3
    swReload := true }

/-- The low 8 bits of an 11-bit period replaced (62 R616, R619). -/
def periodLow (period : BitVec 11) (v : Byte) : BitVec 11 := (period &&& 0x700) ||| v.setWidth 11

/-- The high 3 bits of an 11-bit period replaced by `val[2:0]` (62 R617, R620). -/
def periodHigh (period : BitVec 11) (v : Byte) : BitVec 11 :=
  (period &&& 0x0FF) ||| ((v &&& 7).setWidth 11 <<< 8)

/-- $4003 / $4007 (62 R617). PRESUMED: `enabled` gates the length load alone, not `start` and `duty_pos`, which
the rule writes on the same line. Log 15. -/
def Pulse.writeLength (p : Pulse) (v : Byte) : Pulse :=
  { p with
    period := periodHigh p.period v
    length := if p.enabled then lengthOf v else p.length
    env := { p.env with start := true }
    dutyPos := 0 }

/-- $400B (62 R620). PRESUMED: `enabled` gates the length load alone, not `lin_reload`. Log 15. -/
def Triangle.writeLength (t : Triangle) (v : Byte) : Triangle :=
  { t with
    period := periodHigh t.period v
    length := if t.enabled then lengthOf v else t.length
    linReload := true }

/-- $400F (62 R623). PRESUMED: `enabled` gates the length load alone, not `start`. Log 15. -/
def Noise.writeLength (n : Noise) (v : Byte) : Noise :=
  { n with
    length := if n.enabled then lengthOf v else n.length
    env := { n.env with start := true } }

/-- The sample start address (62 R626). -/
def Dmc.startAddr (d : Dmc) : Addr := 0xC000#16 + d.addrReg.setWidth 16 * 64#16

/-- The sample length in bytes (62 R627). -/
def Dmc.sampleLength (d : Dmc) : BitVec 12 := d.lenReg.setWidth 12 * 16 + 1

/-- The sample restarted (62 R611, R670). -/
def Dmc.restart (d : Dmc) : Dmc := { d with curAddr := d.startAddr, remaining := d.sampleLength }

/-- A channel's length counter after a $4015 write (62 R611). -/
def enableLength (length : Byte) (enabled : Bool) : Byte := if enabled then length else 0

/-- $4015 (62 R611). -/
def Apu.writeEnable (u : Apu) (v : Byte) : Apu :=
  { u with
    pulse1 := { u.pulse1 with
      enabled := v.getLsbD 0, length := enableLength u.pulse1.length (v.getLsbD 0) }
    pulse2 := { u.pulse2 with
      enabled := v.getLsbD 1, length := enableLength u.pulse2.length (v.getLsbD 1) }
    tri := { u.tri with enabled := v.getLsbD 2, length := enableLength u.tri.length (v.getLsbD 2) }
    noise := { u.noise with
      enabled := v.getLsbD 3, length := enableLength u.noise.length (v.getLsbD 3) }
    dmc :=
      if !v.getLsbD 4 then { u.dmc with remaining := 0 }
      else if u.dmc.remaining = 0 then u.dmc.restart else u.dmc
    dmcIrq := false }

/-- $4017 (62 R613). -/
def Apu.writeFrameCounter (u : Apu) (v : Byte) : Apu :=
  let u := { u with
    fs := ⟨v.getLsbD 7, v.getLsbD 6, 0⟩
    frameIrq := u.frameIrq && !v.getLsbD 6 }
  if v.getLsbD 7 then u.quarterFrame.halfFrame else u

/-- $4010 (62 R624). -/
def Apu.writeDmcControl (u : Apu) (v : Byte) : Apu :=
  { u with
    dmc := { u.dmc with irqEnable := v.getLsbD 7, loop := v.getLsbD 6, rateIdx := v.setWidth 4 }
    dmcIrq := u.dmcIrq && v.getLsbD 7 }

/-- `ApuRegWrite(a, v)` (62 R610); any other address, $4009 and $400D among them, has no register. -/
def Apu.regWrite (u : Apu) (a : Addr) (v : Byte) : Apu :=
  if a = 0x4000 then { u with pulse1 := u.pulse1.writeVolume v }
  else if a = 0x4001 then { u with pulse1 := u.pulse1.writeSweep v }
  else if a = 0x4002 then { u with pulse1 := { u.pulse1 with period := periodLow u.pulse1.period v } }
  else if a = 0x4003 then { u with pulse1 := u.pulse1.writeLength v }
  else if a = 0x4004 then { u with pulse2 := u.pulse2.writeVolume v }
  else if a = 0x4005 then { u with pulse2 := u.pulse2.writeSweep v }
  else if a = 0x4006 then { u with pulse2 := { u.pulse2 with period := periodLow u.pulse2.period v } }
  else if a = 0x4007 then { u with pulse2 := u.pulse2.writeLength v }
  else if a = 0x4008 then
    { u with tri := { u.tri with control := v.getLsbD 7, linReloadVal := v.setWidth 7 } }
  else if a = 0x400A then { u with tri := { u.tri with period := periodLow u.tri.period v } }
  else if a = 0x400B then { u with tri := u.tri.writeLength v }
  else if a = 0x400C then
    { u with noise := { u.noise with
      halt := v.getLsbD 5, constVol := v.getLsbD 4, vol := v.setWidth 4 } }
  else if a = 0x400E then
    { u with noise := { u.noise with mode := v.getLsbD 7, periodIdx := v.setWidth 4 } }
  else if a = 0x400F then { u with noise := u.noise.writeLength v }
  else if a = 0x4010 then u.writeDmcControl v
  else if a = 0x4011 then { u with dmc := { u.dmc with level := v.setWidth 7 } }
  else if a = 0x4012 then { u with dmc := { u.dmc with addrReg := v } }
  else if a = 0x4013 then { u with dmc := { u.dmc with lenReg := v } }
  else if a = 0x4015 then u.writeEnable v
  else if a = 0x4017 then u.writeFrameCounter v
  else u

/-! ### The status read (62 R612) -/

/-- Bit `k` of a byte set to a truth value. -/
def flagBit (k : Nat) (b : Bool) : Byte := if b then 1 <<< k else 0

/-- What a $4015 read returns; bit 5 is undriven and comes from the draw `free`. -/
def Apu.statusValue (u : Apu) (free : Byte) : Byte :=
  flagBit 0 (u.pulse1.length != 0) ||| flagBit 1 (u.pulse2.length != 0)
    ||| flagBit 2 (u.tri.length != 0) ||| flagBit 3 (u.noise.length != 0)
    ||| flagBit 4 (u.dmc.remaining != 0) ||| (free &&& 0x20)
    ||| flagBit 6 u.frameIrq ||| flagBit 7 u.dmcIrq

/-- What a $4015 read does: it clears the frame IRQ flag. -/
def Apu.statusEffect (u : Apu) : Apu := { u with frameIrq := false }

/-! ### Clocking (62 R630, R640, R650–R671) -/

/-- `FrameSequencerCycle()` (62 R640). -/
def Apu.frameSequencerCycle (u : Apu) : Apu :=
  let n := u.fs.counter + 1
  let u1 := { u with
    fs := { u.fs with counter := if n = (if u.fs.mode then 37282 else 29830) then 0 else n }
    frameIrq := u.frameIrq || (!u.fs.mode && n == 29829 && !u.fs.irqInhibit) }
  if n = 7457 ∨ n = 22371 then u1.quarterFrame
  else if n = 14913 ∨ n = (if u.fs.mode then 37281 else 29829) then u1.quarterFrame.halfFrame
  else u1

/-- `PulseTimer(k)` (62 R650). -/
def Pulse.clockTimer (p : Pulse) : Pulse :=
  if p.timer = 0 then { p with timer := p.period, dutyPos := p.dutyPos + 1 }
  else { p with timer := p.timer - 1 }

/-- `TriangleTimer()` (62 R655). -/
def Triangle.clockTimer (t : Triangle) : Triangle :=
  if t.timer = 0 then
    { t with
      timer := t.period
      seqPos := if t.length ≠ 0 ∧ t.linear ≠ 0 then t.seqPos + 1 else t.seqPos }
  else { t with timer := t.timer - 1 }

/-- The LFSR a step later (62 R660). -/
def Noise.nextShift (n : Noise) : BitVec 15 :=
  let fb := n.shift.getLsbD 0 ^^ (if n.mode then n.shift.getLsbD 6 else n.shift.getLsbD 1)
  (n.shift >>> 1) ||| (if fb then 0x4000 else 0)

/-- `NoiseTimer()` (62 R660). -/
def Noise.clockTimer (n : Noise) : Noise :=
  if n.timer = 0 then
    { n with
      timer := BitVec.ofNat 12 (noisePeriod.getD n.periodIdx.toNat 4 - 1)
      shift := n.nextShift }
  else { n with timer := n.timer - 1 }

/-- The DAC level after one output bit (62 R671). -/
def Dmc.nextLevel (d : Dmc) : BitVec 7 :=
  if d.silence then d.level
  else if d.shifter.getLsbD 0 then (if d.level ≤ 125 then d.level + 2 else d.level)
  else (if 2 ≤ d.level then d.level - 2 else d.level)

/-- The DMC output unit, `DmcCycle()` less the memory reader (62 R671). -/
def Dmc.outputUnit (d : Dmc) : Dmc :=
  if d.timer = 0 then
    let d := { d with
      timer := BitVec.ofNat 9 (dmcRate.getD d.rateIdx.toNat 428 - 1)
      level := d.nextLevel
      shifter := d.shifter >>> 1
      bitsLeft := d.bitsLeft - 1 }
    if d.bitsLeft = 0 then
      match d.buffer with
      | none => { d with bitsLeft := 8, silence := true }
      | some b => { d with bitsLeft := 8, silence := false, shifter := b, buffer := none }
    else d
  else { d with timer := d.timer - 1 }

/-- The DMC memory reader wants a byte (62 R670). -/
def Dmc.wantsByte (d : Dmc) : Bool := d.buffer.isNone && d.remaining != 0

/-- The memory reader takes the byte it asked for (62 R670, R672). -/
def Apu.dmcTakeByte (u : Apu) (v : Byte) : Apu :=
  let d := { u.dmc with
    buffer := some v
    curAddr := if u.dmc.curAddr = 0xFFFF then 0x8000 else u.dmc.curAddr + 1
    remaining := u.dmc.remaining - 1 }
  if d.remaining = 0 then
    if d.loop then { u with dmc := d.restart }
    else { u with dmc := d, dmcIrq := u.dmcIrq || d.irqEnable }
  else { u with dmc := d }

/-! ### Channel outputs and the output stage (62 R641, R651, R655, R660, R671, R680–R682) -/

/-- `EnvOut` (62 R641). -/
def envOut (constVol : Bool) (vol : BitVec 4) (e : Envelope) : Nat :=
  if constVol then vol.toNat else e.decay.toNat

/-- `PulseOut(k)` (62 R651). -/
def Pulse.output (p : Pulse) (isPulse1 : Bool) : Nat :=
  if p.length = 0 ∨ (dutyTable.getD p.duty.toNat []).getD p.dutyPos.toNat false = false
      ∨ p.sweepMute isPulse1 then 0
  else envOut p.constVol p.vol p.env

/-- `TriOut` (62 R655). -/
def Triangle.output (t : Triangle) : Nat := triTable.getD t.seqPos.toNat 0

/-- `NoiseOut` (62 R660). -/
def Noise.output (n : Noise) : Nat :=
  if n.length = 0 ∨ n.shift.getLsbD 0 then 0 else envOut n.constVol n.vol n.env

/-- The pulse half of the mixer (62 R680). -/
def mixPulse (p1 p2 : Nat) : Rat :=
  if p1 + p2 = 0 then 0 else 95.88 / (8128 / ((p1 + p2 : Nat) : Rat) + 100)

/-- The triangle, noise and delta half of the mixer (62 R680). -/
def mixTnd (t n d : Nat) : Rat :=
  if t + n + d = 0 then 0
  else 159.79 / (1 / ((t : Rat) / 8227 + (n : Rat) / 12241 + (d : Rat) / 22638) + 100)

/-- `mix` (62 R680). -/
def Apu.mix (u : Apu) : Rat :=
  mixPulse (u.pulse1.output true) (u.pulse2.output false)
    + mixTnd u.tri.output u.noise.output u.dmc.level.toNat

/-- A frame appended to the ring, the oldest dropped when it is full (62 R682). -/
def pushFrame (ring : List (Rat × Rat)) (f : Rat × Rat) : List (Rat × Rat) :=
  let ring := ring ++ [f]
  ring.drop (ring.length - Config.audioRingCapacity)

/-- `OutputCycle()` (62 R681, R682), given the current `mix`. -/
def OutputStage.cycle (o : OutputStage) (mix : Rat) : OutputStage :=
  let acc := o.rsAcc + (Config.sampleRate : Rat) / (Config.cpuHz : Rat)
  if 1 ≤ acc then
    let y := mix - o.fPrevIn + Config.dcCoeff * o.fPrevOut
    ⟨mix, y, acc - 1, pushFrame o.ring (y, y)⟩
  else { o with rsAcc := acc }

end Sys2Proof.Machine
end

