-- ==== Sys2Proof/Machine/Joypad.lean ====
section
/-! DEFINITION. The joypads' shift registers (63 R740–R744). -/

namespace Sys2Proof.Machine

/-- Which pad: false is pad 0 ($4016), true is pad 1 ($4017). -/
def Pads.pad (p : Pads) (second : Bool) : Pad := if second then p.pad1 else p.pad0

/-- Replace one pad. -/
def Pads.setPad (p : Pads) (second : Bool) (q : Pad) : Pads :=
  if second then { p with pad1 := q } else { p with pad0 := q }

/-- Latch the live buttons (63 R741). -/
def Pad.latch (q : Pad) : Pad := { q with shift := q.buttons, count := 0 }

/-- `PadStrobe(v)` (63 R741). -/
def Pads.strobeWrite (p : Pads) (v : Byte) : Pads :=
  if p.strobe || v.getLsbD 0 then ⟨v.getLsbD 0, p.pad0.latch, p.pad1.latch⟩
  else { p with strobe := v.getLsbD 0 }

/-- Bit 0 of a pad read (63 R742). -/
def Pads.readBit (p : Pads) (second : Bool) : Bool :=
  let q := p.pad second
  if p.strobe then q.buttons.getLsbD 0
  else if q.count < 8 then q.shift.getLsbD q.count else true

/-- A pad read's value: bit 0, under bits 7–1 of the draw `free` (63 R742). -/
def Pads.readValue (p : Pads) (second : Bool) (free : Byte) : Byte :=
  (if p.readBit second then 1 else 0) ||| (free &&& 0xFE)

/-- What a pad read does: it counts a read of the latched copy (63 R742). -/
def Pads.readEffect (p : Pads) (second : Bool) : Pads :=
  let q := p.pad second
  if !p.strobe && decide (q.count < 8) then p.setPad second { q with count := q.count + 1 } else p

/-- Reset (63 R740, 70 R808): the buttons stay. -/
def Pads.reset (p : Pads) : Pads :=
  ⟨false, { p.pad0 with shift := 0, count := 0 }, { p.pad1 with shift := 0, count := 0 }⟩

end Sys2Proof.Machine
end

