-- ==== Sys2Proof/Machine/Cartridge.lean ====
section
/-! DEFINITION. The cartridge: the iNES container (63 R701–R708), mapper 0 and the mapper interface
(63 R713–R721). An index another mapper gives is taken modulo the memory's size (63 R718). -/

namespace Sys2Proof.Machine

/-! ### Mapper functions (63 R713–R720) -/

/-- Mapper 0, NROM (63 R720). -/
def Cartridge.isNrom (c : Cartridge) : Bool := c.mapperId == 0

/-- `mapCpuRead` for `a` in $8000–$FFFF. -/
def Cartridge.mapCpuRead (c : Cartridge) (a : Addr) : Option Nat :=
  if c.isNrom then some ((a.toNat - 0x8000) % c.prgSize)
  else (Config.mapCpuRead c.mapperId c.regs c.prgSize a).map (· % c.prgSize)

/-- `mapCpuWrite`: the cartridge after the write. PRG-ROM is never changed (20 R81). -/
def Cartridge.mapCpuWrite (c : Cartridge) (a : Addr) (v : Byte) : Cartridge :=
  if c.isNrom then c else { c with regs := Config.mapCpuWrite c.mapperId c.regs a v }

/-- `mapPpuRead` for `a` in $0000–$1FFF. -/
def Cartridge.mapPpuRead (c : Cartridge) (a : BitVec 14) : Option Nat :=
  if c.isNrom then some (a.toNat % c.chrSize)
  else (Config.mapPpuRead c.mapperId c.regs c.chrSize a).map (· % c.chrSize)

/-- `mapPpuWrite` for `a` in $0000–$1FFF. -/
def Cartridge.mapPpuWrite (c : Cartridge) (a : BitVec 14) : Option Nat :=
  if c.isNrom then some (a.toNat % c.chrSize)
  else (Config.mapPpuWrite c.mapperId c.regs c.chrSize a).map (· % c.chrSize)

/-- `cpuReadRegister` for `a` in $4020–$7FFF: the byte and the cartridge after the read, if claimed. -/
def Cartridge.readRegister (c : Cartridge) (a : Addr) : Option (Byte × Cartridge) :=
  if c.isNrom then none
  else (Config.cpuReadRegister c.mapperId c.regs a).map fun r => (r.1, { c with regs := r.2 })

/-- `cpuWriteRegister` for `a` in $4020–$7FFF: the cartridge after the write, if claimed. -/
def Cartridge.writeRegister (c : Cartridge) (a : Addr) (v : Byte) : Option Cartridge :=
  if c.isNrom then none
  else (Config.cpuWriteRegister c.mapperId c.regs a v).map fun r => { c with regs := r }

/-- `onPpuScanline` (63 R715). -/
def Cartridge.onPpuScanline (c : Cartridge) (scanline : Nat) : Cartridge :=
  if c.isNrom then c else { c with regs := Config.onPpuScanline c.mapperId c.regs scanline }

/-- `onCpuCycles` (63 R715). -/
def Cartridge.onCpuCycles (c : Cartridge) (n : Nat) : Cartridge :=
  if c.isNrom then c else { c with regs := Config.onCpuCycles c.mapperId c.regs n }

/-- `irq` (63 R715); always false for NROM. -/
def Cartridge.irq (c : Cartridge) : Bool :=
  if c.isNrom then false else Config.mapperIrq c.mapperId c.regs

/-- `getMirroringOverride`, else the header's mode (61 R542). -/
def Cartridge.effectiveMirroring (c : Cartridge) : Mirroring :=
  if c.isNrom then c.mirroring
  else (Config.mirroringOverride c.mapperId c.regs).getD c.mirroring

/-- `mapPpuNametable` (63 R716). -/
def Cartridge.mapPpuNametable (c : Cartridge) (a : BitVec 14) : Option Nat :=
  if c.isNrom then none else Config.mapPpuNametable c.mapperId c.regs a

/-- `saveRenderState`, if the mapper has the hook (63 R717). -/
def Cartridge.saveRenderState (c : Cartridge) : Option (List Byte) :=
  if c.isNrom then none
  else if Config.hasRenderState c.mapperId then some c.regs.bank else none

/-- `loadRenderState`: the banking registers are replaced, the IRQ registers stay (63 R717). -/
def Cartridge.loadRenderState (c : Cartridge) (snap : Option (List Byte)) : Cartridge :=
  match snap with
  | none => c
  | some bank => { c with regs := { c.regs with bank := bank } }

/-- The mapper's registers at power-on (63 R719); NROM has none. -/
def powerOnRegs (mapperId : Byte) : MapperRegs :=
  if mapperId = 0 then ⟨[], []⟩ else Config.mapperPowerOn mapperId

/-- The cartridge after a reset (63 R719, 70 R807): the registers at power-on, CHR-RAM unspecified by
the draw `stamp`, all else unchanged. -/
def Cartridge.reset (c : Cartridge) (stamp : Nat) : Cartridge :=
  { c with
    regs := powerOnRegs c.mapperId
    chr := if c.chrIsRam then ⟨.drawn stamp, []⟩ else c.chr }

/-! ### Nametable routing (61 R542) -/

/-- `page(m, n)`: the CIRAM page of nametable `n` under a mirroring mode. -/
def mirrorPage (m : Mirroring) (n : Nat) : Nat :=
  match m with
  | .horizontal => n / 2
  | .vertical => n % 2
  | .fourScreen => n
  | .singleLower => 0
  | .singleUpper => 1

/-- The CIRAM index of a nametable address `a` in $2000–$3EFF. -/
def Cartridge.ciramIndex (c : Cartridge) (a : BitVec 14) : Nat :=
  match c.mapPpuNametable a with
  | some j => j % 4096
  | none =>
    mirrorPage c.effectiveMirroring ((a.toNat - 0x2000) / 0x400 % 4) * 0x400 + a.toNat % 0x400

/-! ### The ROM container (63 R701–R708) -/

/-- Mirroring from header byte 6 (63 R703). -/
def headerMirroring (f6 : Byte) : Mirroring :=
  if f6.getLsbD 3 then .fourScreen
  else if f6.getLsbD 0 then .vertical else .horizontal

/-- The bytes from an offset on, a given number of them. -/
def slice (bytes : List Byte) (off n : Nat) : List Byte := (bytes.drop off).take n

/-- `ParseRom` (63 R701, R702). CHR-RAM takes its contents at the reset that ends a load; until then
it is the draw `stamp` (63 R707). -/
def parseRom (bytes : List Byte) (stamp : Nat) : Except Fault Cartridge :=
  if bytes.length < 16 then .error .tooShort
  else if bytes.take 4 ≠ [0x4E, 0x45, 0x53, 0x1A] then .error .badMagic
  else
    let f6 := bytes.getD 6 0
    let f7 := bytes.getD 7 0
    let prgSize := (bytes.getD 4 0).toNat * 16384
    let chrDeclared := (bytes.getD 5 0).toNat * 8192
    let off := 16 + if f6.getLsbD 2 then 512 else 0
    if bytes.length < off + prgSize + chrDeclared then .error .truncated
    else
      let mapperId : Byte := f7.extractLsb' 4 4 ++ f6.extractLsb' 4 4
      .ok {
        prgSize := prgSize
        prgRom := Memory.ofBytes (slice bytes off prgSize)
        chrSize := if chrDeclared = 0 then 8192 else chrDeclared
        chr := if chrDeclared = 0 then ⟨.drawn stamp, []⟩
               else Memory.ofBytes (slice bytes (off + prgSize) chrDeclared)
        chrIsRam := chrDeclared = 0
        mirroring := headerMirroring f6
        battery := f6.getLsbD 1
        headerVariant := f7.extractLsb' 2 2
        mapperId := mapperId
        regs := powerOnRegs mapperId }

/-- PRG banking granularity (63 R708, R720). -/
def prgGranularity (mapperId : Byte) : Nat :=
  if mapperId = 0 then 16384 else Config.mapperPrgGranularity mapperId

/-- CHR banking granularity (63 R708, R720). -/
def chrGranularity (mapperId : Byte) : Nat :=
  if mapperId = 0 then 8192 else Config.mapperChrGranularity mapperId

/-- Construction of the mapper (63 R708): the errors in the order the rule names them. -/
def constructCartridge (c : Cartridge) : Except Fault Cartridge :=
  if c.mapperId ≠ 0 ∧ Config.mapperSupported c.mapperId = false then
    .error (.unsupportedMapper c.mapperId)
  else if c.prgSize = 0 ∨ c.prgSize % prgGranularity c.mapperId ≠ 0 then .error (.badSize c.prgSize)
  else if c.chrSize % chrGranularity c.mapperId ≠ 0 then .error (.badSize c.chrSize)
  else .ok c

end Sys2Proof.Machine
end

