-- ==== Sys2Proof/Machine/Ppu.lean ====
section
/-! DEFINITION. The video chip as the processor sees it: its private address space (61 R540–R544) and
its eight registers (61 R501–R523). -/

namespace Sys2Proof.Machine

/-! ### Fields of the registers -/

/-- PPUCTRL bit 7, NMI enable (61 R501). -/
def Ppu.nmiEnabled (p : Ppu) : Bool := p.ctrl.getLsbD 7

/-- Sprite height from a PPUCTRL value: bit 5 (61 R501). -/
def spriteHeight (ctrl : Byte) : Nat := if ctrl.getLsbD 5 then 16 else 8

/-- "Rendering enabled" (61 R535). -/
def Ppu.renderingEnabled (p : Ppu) : Bool := p.mask.getLsbD 3 || p.mask.getLsbD 4

/-- A one-bit value as a byte. -/
def bitByte (b : Bool) : Byte := if b then 1 else 0

/-! ### The private address space -/

/-- The palette entry an address $3F00–$3FFF selects (61 R543). -/
def paletteIndex (a : BitVec 14) : Nat :=
  let p := a.toNat % 32
  if p = 0x10 ∨ p = 0x14 ∨ p = 0x18 ∨ p = 0x1C then p - 0x10 else p

/-- Entry `i` of the palette, 6 bits (61 R543). -/
def Ppu.paletteEntry (p : Ppu) (i : Nat) : BitVec 6 := (p.palette.read i).setWidth 6

/-- `PpuRead(a)` (61 R541–R544). `site` tells apart the reads that share one draw stamp; only a CHR
address the mapper leaves unmapped uses it (log 1). -/
def State.ppuRead (s : State) (site : Nat) (a : BitVec 14) : Byte :=
  if a < 0x2000#14 then
    match s.cart.bind (·.mapPpuRead a), s.cart with
    | some i, some c => c.chr.read i
    | _, _ => Config.unmappedChr s.draws site a.toNat
  else if a < 0x3F00#14 then
    match s.cart with
    | some c => s.ppu.ciram.read (c.ciramIndex a)
    | none => Config.unmappedChr s.draws site a.toNat
  else (s.ppu.paletteEntry (paletteIndex a)).setWidth 8

/-- `PpuWrite(a, v)` (61 R541–R544): CHR-ROM and unmapped CHR keep their contents. -/
def State.ppuWrite (s : State) (a : BitVec 14) (v : Byte) : State :=
  if a < 0x2000#14 then
    match s.cart with
    | none => s
    | some c =>
      match c.mapPpuWrite a with
      | some i => if c.chrIsRam then { s with cart := some { c with chr := c.chr.write i v } } else s
      | none => s
  else if a < 0x3F00#14 then
    match s.cart with
    | some c => { s with ppu := { s.ppu with ciram := s.ppu.ciram.write (c.ciramIndex a) v } }
    | none => s
  else
    { s with ppu := { s.ppu with palette := s.ppu.palette.write (paletteIndex a) (v &&& 0x3F) } }

/-! ### Open bus (61 R521) -/

/-- All three groups refreshed with a byte (61 R511, R517, R518). -/
def Ppu.refreshAll (p : Ppu) (v : Byte) : Ppu := { p with ob := v, ageLo := 0, ageB5 := 0, ageHi := 0 }

/-! ### Register reads -/

/-- The address $2007 uses: the low 14 bits of `v` (61 R503). -/
def Ppu.dataAddr (p : Ppu) : BitVec 14 := p.v.setWidth 14

/-- `v` after a $2007 access (61 R501, R518): +1 or +32, modulo $8000. -/
def Ppu.nextV (p : Ppu) : BitVec 15 := p.v + if p.ctrl.getLsbD 2 then 32 else 1

/-- What a $2002 read returns (61 R512). -/
def Ppu.statusValue (p : Ppu) : Byte :=
  bitByte p.vblank <<< 7 ||| bitByte p.spriteZeroHit <<< 6 ||| bitByte p.spriteOverflow <<< 5
    ||| (p.ob &&& 0x1F)

/-- What a $2007 read returns (61 R518). -/
def State.dataValue (s : State) : Byte :=
  if s.ppu.dataAddr < 0x3F00#14 then s.ppu.readBuffer
  else (s.ppuRead 0 s.ppu.dataAddr &&& 0x3F) ||| (s.ppu.ob &&& 0xC0)

/-- `PpuRegRead(r)`: the value (61 R510, R512, R517, R518, R523). -/
def State.ppuRegValue (s : State) (r : BitVec 3) : Byte :=
  if r = 2 then s.ppu.statusValue
  else if r = 4 then s.ppu.oam.read s.ppu.oamAddr.toNat
  else if r = 7 then s.dataValue
  else s.ppu.ob

/-- What a $2002 read does (61 R512). -/
def Ppu.statusEffect (p : Ppu) : Ppu :=
  { p with
    vblank := false
    w := false
    ob := (p.ob &&& 0x1F) ||| (p.statusValue &&& 0xE0)
    ageB5 := 0
    ageHi := 0 }

/-- What a $2007 read does (61 R518). The draw counter moves on where the buffer is loaded from CHR. -/
def State.dataEffect (s : State) : State :=
  let a := s.ppu.dataAddr
  let p := s.ppu
  let p :=
    if a < 0x3F00#14 then
      { p.refreshAll s.dataValue with readBuffer := s.ppuRead 0 a }
    else
      { p with
        readBuffer := s.ppuRead 0 (a - 0x1000#14)
        ob := (p.ob &&& 0xC0) ||| (s.dataValue &&& 0x3F)
        ageLo := 0
        ageB5 := 0 }
  { s with
    ppu := { p with v := p.nextV }
    draws := if a < 0x2000#14 then s.draws + 1 else s.draws }

/-- `PpuRegRead(r)`: the effect (61 R510, R512, R517, R518, R523). -/
def State.ppuRegReadEffect (s : State) (r : BitVec 3) : State :=
  if r = 2 then { s with ppu := s.ppu.statusEffect }
  else if r = 4 then { s with ppu := s.ppu.refreshAll (s.ppu.oam.read s.ppu.oamAddr.toNat) }
  else if r = 7 then s.dataEffect
  else s

/-! ### Register writes -/

/-- $2000 (61 R514): PPUCTRL, and the nametable bits of `t`. -/
def Ppu.writeCtrl (p : Ppu) (v : Byte) : Ppu :=
  { p with
    ctrl := v
    t := (p.t &&& ~~~0x0C00#15) ||| ((v &&& 3).setWidth 15 <<< 10) }

/-- Whether a $2000 write requests an NMI (61 R514): only under `NmiOnLateEnable`. -/
def Ppu.lateNmi (p : Ppu) (v : Byte) : Bool :=
  Config.nmiOnLateEnable && p.vblank && !p.nmiEnabled && v.getLsbD 7

/-- $2004 (61 R516). -/
def Ppu.writeOam (p : Ppu) (v : Byte) : Ppu :=
  { p with oam := p.oam.write p.oamAddr.toNat v, oamAddr := p.oamAddr + 1 }

/-- $2005 (61 R520). -/
def Ppu.writeScroll (p : Ppu) (v : Byte) : Ppu :=
  if p.w then
    { p with
      t := (p.t &&& ~~~0x73E0#15) ||| ((v &&& 7).setWidth 15 <<< 12) ||| ((v >>> 3).setWidth 15 <<< 5)
      w := false }
  else
    { p with
      t := (p.t &&& ~~~0x001F#15) ||| (v >>> 3).setWidth 15
      x := v.setWidth 3
      w := true }

/-- $2006 (61 R522). -/
def Ppu.writeAddr (p : Ppu) (v : Byte) : Ppu :=
  if p.w then
    let t := (p.t &&& 0x7F00#15) ||| v.setWidth 15
    { p with t := t, v := t, w := false }
  else
    { p with
      t := (p.t &&& 0x00FF#15) ||| ((v &&& 0x3F).setWidth 15 <<< 8)
      w := true }

/-- $2007 (61 R519). -/
def State.writeData (s : State) (v : Byte) : State :=
  let s1 := s.ppuWrite s.ppu.dataAddr v
  { s1 with ppu := { s1.ppu with v := s1.ppu.nextV } }

/-- `PpuRegWrite(r, v)` (61 R511): every write refreshes open bus, then does the register's write. -/
def State.ppuRegWrite (s : State) (r : BitVec 3) (v : Byte) : State :=
  let s := { s with ppu := s.ppu.refreshAll v }
  if r = 0 then
    { s with ppu := s.ppu.writeCtrl v, nmiPending := s.nmiPending || s.ppu.lateNmi v }
  else if r = 1 then { s with ppu := { s.ppu with mask := v } }
  else if r = 2 then s
  else if r = 3 then { s with ppu := { s.ppu with oamAddr := v } }
  else if r = 4 then { s with ppu := s.ppu.writeOam v }
  else if r = 5 then { s with ppu := s.ppu.writeScroll v }
  else if r = 6 then { s with ppu := s.ppu.writeAddr v }
  else s.writeData v

end Sys2Proof.Machine
end

