-- ==== Sys2Proof/Machine/Bus.lean ====
section
/-! DEFINITION. The CPU bus: the map of 20 R74, the side-effect-free read (R75) and OAM DMA (R87). A read
answers the byte and the machine after the read. -/

namespace Sys2Proof.Machine

/-- The work RAM byte an address below $2000 selects (20 R76). -/
def ramIndex (a : Addr) : Nat := a.toNat % 0x800

/-- The PRG-RAM byte an address $6000–$7FFF selects (20 R80). -/
def prgRamIndex (a : Addr) : Nat := a.toNat - 0x6000

/-- A fresh `draw u8` (00 R14, log 1). -/
def State.draw (s : State) : Byte × State := (Config.freeByte s.draws, { s with draws := s.draws + 1 })

/-- `ApuStatusRead()` (62 R612): bit 5 takes a draw. -/
def State.apuStatusRead (s : State) : Byte × State :=
  let d := s.draw
  (s.apu.statusValue d.1, { d.2 with apu := s.apu.statusEffect })

/-- `PadRead(p)` (63 R742): bits 7–1 take a draw. -/
def State.padRead (s : State) (second : Bool) : Byte × State :=
  let d := s.draw
  (s.pads.readValue second d.1, { d.2 with pads := s.pads.readEffect second })

/-- A read the mapper's register hook is offered first (20 R79, R80; 63 R714). -/
def State.hookedRead (s : State) (a : Addr) (unclaimed : Byte × State) : Byte × State :=
  match s.cart.bind (·.readRegister a) with
  | some r => (r.1, { s with cart := some r.2 })
  | none => unclaimed

/-- A read of the PRG-ROM window (20 R81). -/
def State.prgRead (s : State) (a : Addr) : Byte × State :=
  match s.cart.bind (·.mapCpuRead a), s.cart with
  | some i, some c => (c.prgRom.read i, s)
  | _, _ => s.draw

/-- `MemRead(a, 1)` (20 R74). -/
def State.memRead (s : State) (a : Addr) : Byte × State :=
  if a < 0x2000#16 then (s.ram.read (ramIndex a), s)
  else if a < 0x4000#16 then (s.ppuRegValue (a.setWidth 3), s.ppuRegReadEffect (a.setWidth 3))
  else if a < 0x4015#16 then s.draw
  else if a = 0x4015#16 then s.apuStatusRead
  else if a = 0x4016#16 then s.padRead false
  else if a = 0x4017#16 then s.padRead true
  else if a < 0x4020#16 then s.draw
  else if a < 0x6000#16 then s.hookedRead a s.draw
  else if a < 0x8000#16 then s.hookedRead a (s.prgRam.read (prgRamIndex a), s)
  else s.prgRead a

/-- `Peek(a)` (20 R75): the value `MemRead` would return, and no change but to the model's own draw
counter, so that a later draw is a fresh one. -/
def State.peek (s : State) (a : Addr) : Byte × State :=
  let r := s.memRead a
  (r.1, { s with draws := r.2.draws })

/-- Byte `i` of an OAM DMA stored: `oam[(oam_addr + i) mod 256] <- v` (20 R87). -/
def State.oamStore (s : State) (i : Nat) (v : Byte) : State :=
  { s with ppu := { s.ppu with oam := s.ppu.oam.write ((s.ppu.oamAddr.toNat + i) % 256) v } }

/-- The copy loop of OAM DMA (20 R87), from byte `i` on, `n` bytes. -/
def State.dmaCopy (page : Byte) : (n i : Nat) → State → State
  | 0, _, s => s
  | n + 1, i, s =>
    let r := s.peek (wordOf (BitVec.ofNat 8 i) page)
    State.dmaCopy page n (i + 1) (r.2.oamStore i r.1)

/-- `OamDma(page)` (20 R87). `cycles` already holds the writing instruction's own cost, so the parity
is that of the rule's `c` (log 9). -/
def State.oamDma (s : State) (page : Byte) : State :=
  let t := s.dmaCopy page 256 0
  { t with cycles := t.cycles + 513 + t.cycles % 2 }

/-- A write the mapper's register hook is offered first (20 R79, R80; 63 R714). -/
def State.hookedWrite (s : State) (a : Addr) (v : Byte) (unclaimed : State) : State :=
  match s.cart.bind (·.writeRegister a v) with
  | some c => { s with cart := some c }
  | none => unclaimed

/-- `MemWrite(a, 1, v)` (20 R74). -/
def State.memWrite (s : State) (a : Addr) (v : Byte) : State :=
  if a < 0x2000#16 then { s with ram := s.ram.write (ramIndex a) v }
  else if a < 0x4000#16 then s.ppuRegWrite (a.setWidth 3) v
  else if a = 0x4014#16 then s.oamDma v
  else if a = 0x4016#16 then { s with pads := s.pads.strobeWrite v }
  else if a < 0x4018#16 then { s with apu := s.apu.regWrite a v }
  else if a < 0x4020#16 then s
  else if a < 0x6000#16 then s.hookedWrite a v s
  else if a < 0x8000#16 then s.hookedWrite a v { s with prgRam := s.prgRam.write (prgRamIndex a) v }
  else { s with cart := s.cart.map (·.mapCpuWrite a v) }

/-- `Read16(a)` (00 R11): the low byte at `a`, then the high byte at `a + 1`. -/
def State.read16 (s : State) (a : Addr) : Addr × State :=
  let lo := s.memRead a
  let hi := lo.2.memRead (a + 1)
  (wordOf lo.1 hi.1, hi.2)

end Sys2Proof.Machine
end

