-- ==== Sys2Proof/Machine/Flags.lean ====
section
/-! DEFINITION. The status register and every flag computation (00 R12, 10 R34–R43, 42, 43). -/

namespace Sys2Proof.Machine

/-- P read as a byte: N V U B D I Z C, with U = 1 and B = 0 (10 R34, R39, R40). -/
def Flags.toByte (p : Flags) : Byte :=
  flagBit 7 p.n ||| flagBit 6 p.v ||| 0x20 ||| flagBit 3 p.d ||| flagBit 2 p.i ||| flagBit 1 p.z
    ||| flagBit 0 p.c

/-- P written whole (10 R43): bits 5 and 4 of the byte are dropped. -/
def Flags.ofByte (v : Byte) : Flags where
  n := v.getLsbD 7
  v := v.getLsbD 6
  d := v.getLsbD 3
  i := v.getLsbD 2
  z := v.getLsbD 1
  c := v.getLsbD 0

/-- The status byte pushed with B = `b` and U = 1 (10 R39, 41 R231, 60 R403). -/
def Flags.pushed (p : Flags) (b : Bool) : Byte := (p.toByte &&& ~~~0x10) ||| 0x20 ||| flagBit 4 b

/-- `SetNZ(v)` (00 R12). -/
def State.setNZ (s : State) (v : Byte) : State :=
  { s with p := { s.p with z := v == 0, n := v.getLsbD 7 } }

/-- C written alone. -/
def State.setC (s : State) (b : Bool) : State := { s with p := { s.p with c := b } }

/-- `AddC(m)` (42): the exact sum, V by the two's-complement test, C the carry out, then N and Z. -/
def State.addC (s : State) (m : Byte) : State :=
  let sum := s.a.toNat + m.toNat + s.p.c.toNat
  let r : Byte := BitVec.ofNat 8 sum
  let v := ((s.a ^^^ r) &&& (m ^^^ r)).getLsbD 7
  { s with a := r, p := { s.p with v := v, c := decide (0xFF < sum), z := r == 0, n := r.getLsbD 7 } }

/-- `Compare(r, m)` (42): an unsigned comparison, N from the difference. -/
def State.compare (s : State) (r m : Byte) : State :=
  { s with p := { s.p with c := decide (m.toNat ≤ r.toNat), z := r == m, n := (r - m).getLsbD 7 } }

/-- BIT's flags (42 R255). -/
def State.bitTest (s : State) (m : Byte) : State :=
  { s with p := { s.p with z := (s.a &&& m) == 0, n := m.getLsbD 7, v := m.getLsbD 6 } }

/-- The rotate-left result with the carry `c` shifted in (43 R293). -/
def rolByte (m : Byte) (c : Bool) : Byte := (m <<< 1) ||| bitByte c

/-- The rotate-right result with the carry `c` shifted in (43 R294). -/
def rorByte (m : Byte) (c : Bool) : Byte := (m >>> 1) ||| (bitByte c <<< 7)

end Sys2Proof.Machine
end

