-- ==== Sys2Proof/Machine/Ops.lean ====
section
/-! DEFINITION. The named operations over registers and the stack, taking an interrupt, and the return
from one. -/

namespace Sys2Proof.Machine

/-- Add to the cycle counter (30 R145). -/
def State.charge (s : State) (n : Nat) : State := { s with cycles := s.cycles + n }

/-- `PC <- (PC + n) mod 65536` (30 R126). -/
def State.advance (s : State) (n : Nat) : State := { s with pc := s.pc + BitVec.ofNat 16 n }

/-- `PC <- target`. -/
def State.jump (s : State) (target : Addr) : State := { s with pc := target }

/-- A register written with its N and Z (40 R200). -/
def State.loadA (s : State) (v : Byte) : State := { s with a := v }.setNZ v
def State.loadX (s : State) (v : Byte) : State := { s with x := v }.setNZ v
def State.loadY (s : State) (v : Byte) : State := { s with y := v }.setNZ v

/-- The address of the next free stack location (20 R84). -/
def State.stackAddr (s : State) : Addr := wordOf s.sp 0x01

/-- `Push(v)` (20 R84). -/
def State.push (s : State) (v : Byte) : State :=
  let t := s.memWrite s.stackAddr v
  { t with sp := t.sp - 1 }

/-- `Pull()` (20 R84). -/
def State.pull (s : State) : Byte × State :=
  let t := { s with sp := s.sp + 1 }
  t.memRead t.stackAddr

/-- `Push16(w)`: high byte first (20 R84). -/
def State.push16 (s : State) (w : Addr) : State := (s.push (hiByte w)).push (loByte w)

/-- `Pull16()` (20 R84). -/
def State.pull16 (s : State) : Addr × State :=
  let lo := s.pull
  let hi := lo.2.pull
  (wordOf lo.1 hi.1, hi.2)

/-- The NMI vector (20 R85). -/
def nmiVector : Addr := 0xFFFA
/-- The reset vector (20 R85). -/
def resetVector : Addr := 0xFFFC
/-- The IRQ and BRK vector (20 R85). -/
def irqVector : Addr := 0xFFFE

/-- `Interrupt(ret, vector, b)` (60 R403): the return address and the status are pushed, I is set, and
PC is the word at the vector. -/
def State.interrupt (s : State) (ret vector : Addr) (b : Bool) : State :=
  let t := (s.push16 ret).push (s.p.pushed b)
  let r := { t with p := { t.p with i := true } }.read16 vector
  r.2.jump r.1

/-- The return from NMI, IRQ and BRK (44 R313, 60 R413): status, then the return address. -/
def State.returnFromInterrupt (s : State) : State :=
  let v := s.pull
  let r := { v.2 with p := Flags.ofByte v.1 }.pull16
  r.2.jump r.1

/-- NMI service (60 R401, R405). -/
def State.nmiService (s : State) : State :=
  ({ s with nmiPending := false }.interrupt s.pc nmiVector false).charge 7

/-- IRQ service (60 R401, R407). -/
def State.irqService (s : State) : State := (s.interrupt s.pc irqVector false).charge 7

end Sys2Proof.Machine
end

