-- ==== Sys2Proof/Machine/Operands.lean ====
section
/-! DEFINITION. The operand forms: effective addresses and page crossings (30 R130–R142), what each form
costs (30 R145–R147, R155), and the three ways an instruction uses its operand: read it, store to it,
or read, modify and store it. The cycles are charged before the data access, so that OAM DMA sees the
counter with the instruction's own cost in it (log 9). -/

namespace Sys2Proof.Machine

/-- An effective address, whether a page was crossed, and the machine after the pointer reads. -/
structure Located where
  ea : Addr
  cross : Bool
  state : State

/-- Two addresses lie on different pages. -/
def pageCross (a b : Addr) : Bool := hiByte a != hiByte b

/-- `EA()` (30 R133–R141). The accumulator and the immediate form have none (R131, R132); their users
do not ask for it. -/
def State.locate (s : State) (m : AddrMode) : Located :=
  match m with
  | .acc | .imm _ => ⟨0, false, s⟩
  | .zp a => ⟨a.setWidth 16, false, s⟩
  | .zpx a => ⟨(a + s.x).setWidth 16, false, s⟩
  | .zpy a => ⟨(a + s.y).setWidth 16, false, s⟩
  | .abs a => ⟨a, false, s⟩
  | .absx a =>
    let ea := a + s.x.setWidth 16
    ⟨ea, pageCross a ea, s⟩
  | .absy a =>
    let ea := a + s.y.setWidth 16
    ⟨ea, pageCross a ea, s⟩
  | .ind p =>
    let lo := s.memRead p
    let hi := lo.2.memRead ((p &&& 0xFF00) ||| ((p + 1) &&& 0x00FF))
    ⟨wordOf lo.1 hi.1, false, hi.2⟩
  | .izx p =>
    let q := p + s.x
    let lo := s.memRead (q.setWidth 16)
    let hi := lo.2.memRead ((q + 1).setWidth 16)
    ⟨wordOf lo.1 hi.1, false, hi.2⟩
  | .izy p =>
    let lo := s.memRead (p.setWidth 16)
    let hi := lo.2.memRead ((p + 1).setWidth 16)
    let base := wordOf lo.1 hi.1
    let ea := base + hi.2.y.setWidth 16
    ⟨ea, pageCross base ea, hi.2⟩

/-- Base cycles of an instruction that reads its operand (R155). -/
def readCycles : AddrMode → Nat
  | .acc | .imm _ => 2
  | .zp _ => 3
  | .zpx _ | .zpy _ | .abs _ | .absx _ | .absy _ => 4
  | .izy _ | .ind _ => 5
  | .izx _ => 6

/-- Base cycles of a store (R155): no page-cross penalty (R146). -/
def storeCycles : AddrMode → Nat
  | .acc | .imm _ => 2
  | .zp _ => 3
  | .zpx _ | .zpy _ | .abs _ => 4
  | .absx _ | .absy _ | .ind _ => 5
  | .izx _ | .izy _ => 6

/-- Base cycles of a read-modify-write (R155): no page-cross penalty (R146). -/
def modifyCycles : AddrMode → Nat
  | .acc | .imm _ => 2
  | .zp _ => 5
  | .zpx _ | .zpy _ | .abs _ => 6
  | .absx _ | .absy _ | .ind _ => 7
  | .izx _ | .izy _ => 8

/-- `M <- Operand()` of an instruction that reads memory without writing it: the byte, and the machine
with the cycles charged (R146: one more on a page crossing) and PC advanced (R126). -/
def State.readOperand (s : State) (m : AddrMode) : Byte × State :=
  match m with
  | .acc => (s.a, (s.charge (readCycles m)).advance m.size)
  | .imm v => (v, (s.charge (readCycles m)).advance m.size)
  | _ =>
    let e := s.locate m
    let r := (e.state.charge (readCycles m + e.cross.toNat)).memRead e.ea
    (r.1, r.2.advance m.size)

/-- `Store(v)` of an instruction that does not read its operand. -/
def State.storeOperand (s : State) (m : AddrMode) (v : Byte) : State :=
  let e := s.locate m
  ((e.state.charge (storeCycles m)).memWrite e.ea v).advance m.size

/-- What a read-modify-write read, what it stored, and the machine after it. -/
structure Modified where
  old : Byte
  new : Byte
  state : State

/-- `M <- Operand(); r <- f(M); Store(r)`: one data read and one data write (20 R89, 43 R290). -/
def State.modifyOperand (s : State) (m : AddrMode) (f : Byte → Byte) : Modified :=
  match m with
  | .acc => ⟨s.a, f s.a, ({ s with a := f s.a }.charge (modifyCycles m)).advance m.size⟩
  | _ =>
    let e := s.locate m
    let r := (e.state.charge (modifyCycles m)).memRead e.ea
    ⟨r.1, f r.1, (r.2.memWrite e.ea (f r.1)).advance m.size⟩

/-- An instruction with no operand (R130): its cycles and one byte of PC. -/
def State.implied (s : State) (cycles : Nat) : State := (s.charge cycles).advance 1

/-- `Branch(cond)` (44 R315), with the cost of R145 and R147. -/
def State.branch (s : State) (cond : Bool) (off : Byte) : State :=
  let next := s.pc + 2
  let target := next + off.signExtend 16
  if cond then (s.charge (2 + 1 + (pageCross next target).toNat)).jump target
  else (s.charge 2).jump next

end Sys2Proof.Machine
end

