-- ==== Sys2Proof/Machine/LoadStore.lean ====
section
/-! DEFINITION. Loads, stores and register transfers (40). -/

namespace Sys2Proof.Machine

/-- What a meaning answers. -/
abbrev Outcome := Host.Outcome State Fault Refusal

/-- LDA (R201). -/
def execLda (m : AddrMode) (s : State) : Outcome :=
  let r := s.readOperand m
  .next (r.2.loadA r.1)

/-- LDX (R202). -/
def execLdx (m : AddrMode) (s : State) : Outcome :=
  let r := s.readOperand m
  .next (r.2.loadX r.1)

/-- LDY (R203). -/
def execLdy (m : AddrMode) (s : State) : Outcome :=
  let r := s.readOperand m
  .next (r.2.loadY r.1)

/-- STA (R204). -/
def execSta (m : AddrMode) (s : State) : Outcome := .next (s.storeOperand m s.a)

/-- STX (R205). -/
def execStx (m : AddrMode) (s : State) : Outcome := .next (s.storeOperand m s.x)

/-- STY (R206). -/
def execSty (m : AddrMode) (s : State) : Outcome := .next (s.storeOperand m s.y)

/-- TAX (R207). -/
def execTax (s : State) : Outcome := .next ((s.loadX s.a).implied 2)

/-- TAY (R208). -/
def execTay (s : State) : Outcome := .next ((s.loadY s.a).implied 2)

/-- TXA (R209). -/
def execTxa (s : State) : Outcome := .next ((s.loadA s.x).implied 2)

/-- TYA (R210). -/
def execTya (s : State) : Outcome := .next ((s.loadA s.y).implied 2)

/-- TSX (R211). -/
def execTsx (s : State) : Outcome := .next ((s.loadX s.sp).implied 2)

/-- TXS (R212): no flag. -/
def execTxs (s : State) : Outcome := .next ({ s with sp := s.x }.implied 2)

end Sys2Proof.Machine
end

