-- ==== Sys2Proof/Machine/Arith.lean ====
section
/-! DEFINITION. Arithmetic, logic, compare, increment and decrement (42). -/

namespace Sys2Proof.Machine

/-- ADC (R250). -/
def execAdc (m : AddrMode) (s : State) : Outcome :=
  let r := s.readOperand m
  .next (r.2.addC r.1)

/-- SBC (R251). -/
def execSbc (m : AddrMode) (s : State) : Outcome :=
  let r := s.readOperand m
  .next (r.2.addC (r.1 ^^^ 0xFF))

/-- AND (R252). -/
def execAnd (m : AddrMode) (s : State) : Outcome :=
  let r := s.readOperand m
  .next (r.2.loadA (r.2.a &&& r.1))

/-- ORA (R253). -/
def execOra (m : AddrMode) (s : State) : Outcome :=
  let r := s.readOperand m
  .next (r.2.loadA (r.2.a ||| r.1))

/-- EOR (R254). -/
def execEor (m : AddrMode) (s : State) : Outcome :=
  let r := s.readOperand m
  .next (r.2.loadA (r.2.a ^^^ r.1))

/-- BIT (R255). -/
def execBit (m : AddrMode) (s : State) : Outcome :=
  let r := s.readOperand m
  .next (r.2.bitTest r.1)

/-- CMP (R256). -/
def execCmp (m : AddrMode) (s : State) : Outcome :=
  let r := s.readOperand m
  .next (r.2.compare r.2.a r.1)

/-- CPX (R257). -/
def execCpx (m : AddrMode) (s : State) : Outcome :=
  let r := s.readOperand m
  .next (r.2.compare r.2.x r.1)

/-- CPY (R258). -/
def execCpy (m : AddrMode) (s : State) : Outcome :=
  let r := s.readOperand m
  .next (r.2.compare r.2.y r.1)

/-- INC (R259). -/
def execInc (m : AddrMode) (s : State) : Outcome :=
  let r := s.modifyOperand m (· + 1)
  .next (r.state.setNZ r.new)

/-- DEC (R260). -/
def execDec (m : AddrMode) (s : State) : Outcome :=
  let r := s.modifyOperand m (· - 1)
  .next (r.state.setNZ r.new)

/-- INX (R261). -/
def execInx (s : State) : Outcome := .next ((s.loadX (s.x + 1)).implied 2)

/-- INY (R262). -/
def execIny (s : State) : Outcome := .next ((s.loadY (s.y + 1)).implied 2)

/-- DEX (R263). -/
def execDex (s : State) : Outcome := .next ((s.loadX (s.x - 1)).implied 2)

/-- DEY (R264). -/
def execDey (s : State) : Outcome := .next ((s.loadY (s.y - 1)).implied 2)

end Sys2Proof.Machine
end

