-- ==== Sys2Proof/Machine/Control.lean ====
section
/-! DEFINITION. Control transfer (44). -/

namespace Sys2Proof.Machine

/-- JMP (R310). -/
def execJmp (m : AddrMode) (s : State) : Outcome :=
  let e := s.locate m
  .next ((e.state.charge (match m with | .ind _ => 5 | _ => 3)).jump e.ea)

/-- JSR (R311): the address of its last byte is pushed. -/
def execJsr (target : Addr) (s : State) : Outcome :=
  .next (((s.push16 (s.pc + 2)).charge 6).jump target)

/-- RTS (R312). -/
def execRts (s : State) : Outcome :=
  let r := s.pull16
  .next ((r.2.charge 6).jump (r.1 + 1))

/-- RTI (R313). -/
def execRti (s : State) : Outcome := .next (s.returnFromInterrupt.charge 6)

/-- BRK (R314, 60 R408): the return address skips the padding byte. -/
def execBrk (s : State) : Outcome := .next ((s.interrupt (s.pc + 2) irqVector true).charge 7)

/-- BPL (R316). -/
def execBpl (off : Byte) (s : State) : Outcome := .next (s.branch (!s.p.n) off)

/-- BMI (R317). -/
def execBmi (off : Byte) (s : State) : Outcome := .next (s.branch s.p.n off)

/-- BVC (R318). -/
def execBvc (off : Byte) (s : State) : Outcome := .next (s.branch (!s.p.v) off)

/-- BVS (R319). -/
def execBvs (off : Byte) (s : State) : Outcome := .next (s.branch s.p.v off)

/-- BCC (R320). -/
def execBcc (off : Byte) (s : State) : Outcome := .next (s.branch (!s.p.c) off)

/-- BCS (R321). -/
def execBcs (off : Byte) (s : State) : Outcome := .next (s.branch s.p.c off)

/-- BNE (R322). -/
def execBne (off : Byte) (s : State) : Outcome := .next (s.branch (!s.p.z) off)

/-- BEQ (R323). -/
def execBeq (off : Byte) (s : State) : Outcome := .next (s.branch s.p.z off)

end Sys2Proof.Machine
end

