-- ==== Sys2Proof/Machine/FlagOps.lean ====
section
/-! DEFINITION. Flag instructions and the official NOP (45). -/

namespace Sys2Proof.Machine

/-- CLC (R340). -/
def execClc (s : State) : Outcome := .next ((s.setC false).implied 2)

/-- SEC (R341). -/
def execSec (s : State) : Outcome := .next ((s.setC true).implied 2)

/-- CLI (R342). -/
def execCli (s : State) : Outcome := .next ({ s with p := { s.p with i := false } }.implied 2)

/-- SEI (R343). -/
def execSei (s : State) : Outcome := .next ({ s with p := { s.p with i := true } }.implied 2)

/-- CLV (R344). -/
def execClv (s : State) : Outcome := .next ({ s with p := { s.p with v := false } }.implied 2)

/-- CLD (R345). -/
def execCld (s : State) : Outcome := .next ({ s with p := { s.p with d := false } }.implied 2)

/-- SED (R346). -/
def execSed (s : State) : Outcome := .next ({ s with p := { s.p with d := true } }.implied 2)

/-- NOP, the official one (R347). -/
def execNop (s : State) : Outcome := .next (s.implied 2)

end Sys2Proof.Machine
end

