-- ==== Sys2Proof/Machine/Illegal.lean ====
section
/-! DEFINITION. Illegal and unimplemented opcodes (46). -/

namespace Sys2Proof.Machine

/-- LAX (R361). -/
def execLax (m : AddrMode) (s : State) : Outcome :=
  let r := s.readOperand m
  .next ({ r.2 with a := r.1 }.loadX r.1)

/-- SAX (R362): no flag. -/
def execSax (m : AddrMode) (s : State) : Outcome := .next (s.storeOperand m (s.a &&& s.x))

/-- SLO (R363). -/
def execSlo (m : AddrMode) (s : State) : Outcome :=
  let r := s.modifyOperand m (· <<< 1)
  .next ((r.state.setC (r.old.getLsbD 7)).loadA (r.state.a ||| r.new))

/-- RLA (R364). -/
def execRla (m : AddrMode) (s : State) : Outcome :=
  let r := s.modifyOperand m (rolByte · s.p.c)
  .next ((r.state.setC (r.old.getLsbD 7)).loadA (r.state.a &&& r.new))

/-- SRE (R365). -/
def execSre (m : AddrMode) (s : State) : Outcome :=
  let r := s.modifyOperand m (· >>> 1)
  .next ((r.state.setC (r.old.getLsbD 0)).loadA (r.state.a ^^^ r.new))

/-- RRA (R366): the carry shifted out is the carry into the addition. -/
def execRra (m : AddrMode) (s : State) : Outcome :=
  let r := s.modifyOperand m (rorByte · s.p.c)
  .next ((r.state.setC (r.old.getLsbD 0)).addC r.new)

/-- DCP (R367). -/
def execDcp (m : AddrMode) (s : State) : Outcome :=
  let r := s.modifyOperand m (· - 1)
  .next (r.state.compare r.state.a r.new)

/-- ISB (R368). -/
def execIsb (m : AddrMode) (s : State) : Outcome :=
  let r := s.modifyOperand m (· + 1)
  .next (r.state.addC (r.new ^^^ 0xFF))

/-- SBC immediate at $EB (R369). -/
def execSbcEB (v : Byte) (s : State) : Outcome :=
  let r := s.readOperand (.imm v)
  .next (r.2.addC (r.1 ^^^ 0xFF))

/-- NOP, one byte (R370). -/
def execNopImp (s : State) : Outcome := .next (s.implied 2)

/-- NOP immediate (R371). -/
def execNopImm (v : Byte) (s : State) : Outcome := .next (s.readOperand (.imm v)).2

/-- NOP zero-page (R372): the operand is read and dropped. -/
def execNopZp (a : Byte) (s : State) : Outcome := .next (s.readOperand (.zp a)).2

/-- NOP zero-page +X (R373). -/
def execNopZpx (a : Byte) (s : State) : Outcome := .next (s.readOperand (.zpx a)).2

/-- NOP absolute (R374). -/
def execNopAbs (a : Addr) (s : State) : Outcome := .next (s.readOperand (.abs a)).2

/-- NOP absolute +X (R375). -/
def execNopAbsx (a : Addr) (s : State) : Outcome := .next (s.readOperand (.absx a)).2

/-- An unimplemented opcode (R376): one byte, two cycles and no effect; under `UnimplPolicy = refuse`
it has no meaning (92 D12). -/
def State.unimplemented (s : State) (op : Byte) : Outcome :=
  match Config.unimplPolicy with
  | .nop2 => .next (s.implied 2)
  | .refuse => .refused (.unimplementedOpcode op)

/-- JAM (R376). -/
def execJam (op : Byte) (s : State) : Outcome := s.unimplemented op

/-- ANC (R376). -/
def execAnc (op : Byte) (s : State) : Outcome := s.unimplemented op

/-- ALR (R376). -/
def execAlr (s : State) : Outcome := s.unimplemented 0x4B

/-- ARR (R376). -/
def execArr (s : State) : Outcome := s.unimplemented 0x6B

/-- XAA (R376). -/
def execXaa (s : State) : Outcome := s.unimplemented 0x8B

/-- LXA (R376). -/
def execLxa (s : State) : Outcome := s.unimplemented 0xAB

/-- AXS (R376). -/
def execAxs (s : State) : Outcome := s.unimplemented 0xCB

/-- AHX (R376). -/
def execAhx (op : Byte) (s : State) : Outcome := s.unimplemented op

/-- TAS (R376). -/
def execTas (s : State) : Outcome := s.unimplemented 0x9B

/-- SHY (R376). -/
def execShy (s : State) : Outcome := s.unimplemented 0x9C

/-- SHX (R376). -/
def execShx (s : State) : Outcome := s.unimplemented 0x9E

/-- LAS (R376). -/
def execLas (s : State) : Outcome := s.unimplemented 0xBB

end Sys2Proof.Machine
end

