-- ==== Sys2Proof/Machine/Shift.lean ====
section
/-! DEFINITION. Shifts and rotates (43). -/

namespace Sys2Proof.Machine

/-- ASL (R291). -/
def execAsl (m : AddrMode) (s : State) : Outcome :=
  let r := s.modifyOperand m (· <<< 1)
  .next ((r.state.setC (r.old.getLsbD 7)).setNZ r.new)

/-- LSR (R292). -/
def execLsr (m : AddrMode) (s : State) : Outcome :=
  let r := s.modifyOperand m (· >>> 1)
  .next ((r.state.setC (r.old.getLsbD 0)).setNZ r.new)

/-- ROL (R293). -/
def execRol (m : AddrMode) (s : State) : Outcome :=
  let r := s.modifyOperand m (rolByte · s.p.c)
  .next ((r.state.setC (r.old.getLsbD 7)).setNZ r.new)

/-- ROR (R294). -/
def execRor (m : AddrMode) (s : State) : Outcome :=
  let r := s.modifyOperand m (rorByte · s.p.c)
  .next ((r.state.setC (r.old.getLsbD 0)).setNZ r.new)

end Sys2Proof.Machine
end

