-- ==== Sys2Proof/Machine/Stack.lean ====
section
/-! DEFINITION. Stack instructions (41). -/

namespace Sys2Proof.Machine

/-- PHA (R230). -/
def execPha (s : State) : Outcome := .next ((s.push s.a).implied 3)

/-- PHP (R231): B and U are pushed as 1. -/
def execPhp (s : State) : Outcome := .next ((s.push (s.p.pushed true)).implied 3)

/-- PLA (R232). -/
def execPla (s : State) : Outcome :=
  let r := s.pull
  .next ((r.2.loadA r.1).implied 4)

/-- PLP (R233). -/
def execPlp (s : State) : Outcome :=
  let r := s.pull
  .next ({ r.2 with p := Flags.ofByte r.1 }.implied 4)

end Sys2Proof.Machine
end

