-- ==== Sys2Proof/Machine/Raster.lean ====
section
/-! DEFINITION. The simplified rasterizer (61 R550–R561): background, sprites and the frame buffer. -/

namespace Sys2Proof.Machine

/-- A 14-bit PPU address from a number. -/
def ppuAddr (n : Nat) : BitVec 14 := BitVec.ofNat 14 n

/-- The 2-bit number of bit `k` of two pattern bytes. -/
def patternBits (lo hi : Byte) (k : Nat) : Nat := (lo.getLsbD k).toNat + 2 * (hi.getLsbD k).toNat

/-- A background pixel: its 2-bit pattern value and its palette number (61 R560). -/
structure BgColour where
  pix : Nat
  pal : Nat
  deriving DecidableEq, Repr

/-- `BgColour(S, px, s)`, the reference `BgModel` (61 R560). -/
def State.bgColour (st : State) (snap : Snapshot) (site px line : Nat) : BgColour :=
  let t := snap.t
  let sx := (t.extractLsb' 10 1).toNat * 256 + (t.extractLsb' 0 5).toNat * 8 + snap.x.toNat
  let sy := (t.extractLsb' 11 1).toNat * 240 + (t.extractLsb' 5 5).toNat * 8
    + (t.extractLsb' 12 3).toNat
  let wx := (sx + px) % 512
  let wy := (sy + line) % 480
  let n := wx / 256 + 2 * (wy / 240)
  let tx := wx % 256 / 8
  let ty := wy % 240 / 8
  let fx := wx % 8
  let fy := wy % 240 % 8
  let read := fun a => st.ppuRead site (ppuAddr a)
  let tile := (read (0x2000 + n * 0x400 + ty * 32 + tx)).toNat
  let base := if snap.ctrl.getLsbD 4 then 0x1000 else 0
  let lo := read (base + tile * 16 + fy)
  let hi := read (base + tile * 16 + fy + 8)
  let attr := (read (0x2000 + n * 0x400 + 0x3C0 + ty / 4 * 8 + tx / 4)).toNat
  let shift := ty / 2 % 2 * 4 + tx / 2 % 2 * 2
  ⟨patternBits lo hi (7 - fx), attr / 2 ^ shift % 4⟩

/-- `BgPixel(S, px, s)`: a palette index 0..31 (61 R556). -/
def State.bgPixel (st : State) (snap : Snapshot) (site px line : Nat) : Nat :=
  if !snap.mask.getLsbD 3 || (decide (px < 8) && !snap.mask.getLsbD 1) then 0
  else
    let c := st.bgColour snap site px line
    if c.pix = 0 then 0 else c.pal * 4 + c.pix

/-- The four bytes of a sprite (61 R502). -/
structure Sprite where
  y    : Nat
  tile : Byte
  attr : Byte
  x    : Nat
  deriving DecidableEq, Repr

/-- Sprite `i` of OAM (61 R502). -/
def Ppu.sprite (p : Ppu) (i : Nat) : Sprite :=
  ⟨(p.oam.read (4 * i)).toNat, p.oam.read (4 * i + 1), p.oam.read (4 * i + 2),
   (p.oam.read (4 * i + 3)).toNat⟩

/-- The pixel lies in the sprite's box: `X <= px < X + 8` and `Y + 1 <= s < Y + 1 + h`
(61 R534, R557). -/
def Sprite.covers (sp : Sprite) (h px line : Nat) : Bool :=
  decide (sp.x ≤ px) && decide (px < sp.x + 8) && decide (sp.y + 1 ≤ line)
    && decide (line < sp.y + 1 + h)

/-- `SpritePix(i, px, s, C)` for a pixel in the sprite's box (61 R561). -/
def State.spritePix (st : State) (sp : Sprite) (ctrl : Byte) (site px line : Nat) : Nat :=
  let r := line - (sp.y + 1)
  let c := px - sp.x
  let col := if sp.attr.getLsbD 6 then 7 - c else c
  let addr :=
    if ctrl.getLsbD 5 then
      let rr := if sp.attr.getLsbD 7 then 15 - r else r
      let tile := (sp.tile &&& 0xFE).toNat + rr / 8
      (if sp.tile.getLsbD 0 then 0x1000 else 0) + tile * 16 + rr % 8
    else
      let row := if sp.attr.getLsbD 7 then 7 - r else r
      (if ctrl.getLsbD 3 then 0x1000 else 0) + sp.tile.toNat * 16 + row
  patternBits (st.ppuRead site (ppuAddr addr)) (st.ppuRead site (ppuAddr (addr + 8))) (7 - col)

/-- Draw one sprite at a pixel over what is drawn there (61 R557): `bgOpaque` says whether the
background pixel at that position had a nonzero pattern value. -/
def State.drawSprite (st : State) (snap : Snapshot) (i site px line : Nat) (bgOpaque : Bool)
    (under : Nat) : Nat :=
  let sp := st.ppu.sprite i
  if !sp.covers (spriteHeight snap.ctrl) px line then under
  else if !snap.mask.getLsbD 4 || (decide (px < 8) && !snap.mask.getLsbD 2) then under
  else
    let k := st.spritePix sp snap.ctrl (site + i + 1) px line
    if k = 0 then under
    else if sp.attr.getLsbD 5 && bgOpaque then under
    else 16 + (sp.attr.toNat % 4) * 4 + k

/-- The sprites `n - 1`, ..., 0, drawn in that order (61 R557). -/
def State.drawSprites (st : State) (snap : Snapshot) (site px line : Nat) (bgOpaque : Bool) :
    (n : Nat) → (under : Nat) → Nat
  | 0, under => under
  | n + 1, under =>
    st.drawSprites snap site px line bgOpaque n (st.drawSprite snap n site px line bgOpaque under)

/-- The palette index drawn at a pixel: background, then the 64 sprites back to front. -/
def State.linePixel (st : State) (snap : Snapshot) (px line : Nat) : Nat :=
  let site := (line * 256 + px) * 65
  let bg := st.bgPixel snap site px line
  st.drawSprites snap site px line (bg != 0) 64 bg

/-- The colour of a palette index, alpha 255 (61 R558). -/
def State.pixelColour (st : State) (q : Nat) : Pixel :=
  let rgb := Config.paletteRGB (st.ppu.paletteEntry q)
  ⟨rgb.1, rgb.2.1, rgb.2.2, 255⟩

/-- The machine as a line's snapshot has it: the mapper's render state loaded (61 R550). -/
def State.withRenderState (st : State) (snap : Snapshot) : State :=
  { st with cart := st.cart.map (·.loadRenderState snap.mapper) }

/-- One row of the frame buffer (61 R550). -/
def State.renderLine (st : State) (line : Nat) : List Pixel :=
  match st.ppu.snap[line]? with
  | none => []
  | some snap =>
    let sl := st.withRenderState snap
    (List.range 256).map fun px => sl.pixelColour (sl.linePixel snap px line)

/-- `RenderFrame()` (61 R550): only the frame buffer changes (and the model's draw counter). -/
def State.renderFrame (st : State) : State :=
  { st with
    ppu := { st.ppu with frame := .drawn ((List.range 240).map st.renderLine) }
    draws := st.draws + 1 }

/-- The byte `k` (0 red, 1 green, 2 blue, 3 alpha) of the pixel at `px`, `line` of the frame buffer
(61 R558; 60 R425 `getFrameBuffer`); before the first frame it is unspecified (61 R506). -/
def Frame.byteAt (f : Frame) (px line k : Nat) : Byte :=
  match f with
  | .unspecified stamp => Config.unspecifiedByte stamp ((line * 256 + px) * 4 + k)
  | .drawn rows =>
    match (rows.getD line []).getD px ⟨0, 0, 0, 255⟩, k with
    | p, 0 => p.r
    | p, 1 => p.g
    | p, 2 => p.b
    | p, _ => p.a

end Sys2Proof.Machine
end

