-- ==== Sys2Proof/Machine/PpuTiming.lean ====
section
/-! DEFINITION. The dot state machine of the video chip (61 R530–R539, R555). -/

namespace Sys2Proof.Machine

/-- The mapper's render snapshot of the machine, if it has one. -/
def State.renderSnapshot (s : State) : Option (List Byte) := s.cart.bind (·.saveRenderState)

/-- Dot 0 of a visible scanline: take the snapshot of its register state (61 R555). -/
def State.takeSnapshot (s : State) : State :=
  let p := s.ppu
  { s with ppu := { p with snap := p.snap.set p.scanline ⟨p.ctrl, p.mask, p.t, p.x, s.renderSnapshot⟩ } }

/-- `BgOpaque(px, s)` (61 R560). -/
def State.bgOpaque (s : State) (px line : Nat) : Bool :=
  match s.ppu.snap[line]? with
  | none => false
  | some snap => (s.bgColour snap 0 px line).pix != 0 && s.ppu.mask.getLsbD 3

/-- The conditions of the sprite-0 hit test on registers and position (61 R534). -/
def Ppu.spriteZeroEligible (p : Ppu) (px : Nat) : Bool :=
  !p.spriteZeroHit && p.mask.getLsbD 3 && p.mask.getLsbD 4 && px != 255
    && !(decide (px < 8) && (!p.mask.getLsbD 1 || !p.mask.getLsbD 2))

/-- The sprite-0 hit test at dot `px + 1` of the current scanline (61 R534). -/
def State.spriteZeroTest (s : State) (px : Nat) : State :=
  if s.ppu.spriteZeroEligible px then
    let sp := s.ppu.sprite 0
    let line := s.ppu.scanline
    let hit := sp.covers (spriteHeight s.ppu.ctrl) px line && s.bgOpaque px line
      && (!Config.spriteZeroNeedsSpritePixel || s.spritePix sp s.ppu.ctrl 1 px line != 0)
    { s with ppu := { s.ppu with spriteZeroHit := hit }, draws := s.draws + 1 }
  else s

/-- The sprite intersects the scanline after `line`: `0 <= line - Y < h` (61 R533). -/
def Ppu.onNextLine (p : Ppu) (line i : Nat) : Bool :=
  let y := (p.oam.read (4 * i)).toNat
  decide (y ≤ line) && decide (line < y + spriteHeight p.ctrl)

/-- The number of sprites on the scanline after `line` (61 R533). -/
def Ppu.spritesOnNextLine (p : Ppu) (line : Nat) : Nat :=
  ((List.range 64).filter (p.onNextLine line)).length

/-- The sprite overflow evaluation of dot 257 (61 R533). -/
def Ppu.overflowTest (p : Ppu) : Ppu :=
  { p with
    spriteOverflow :=
      p.spriteOverflow || (p.renderingEnabled && decide (9 ≤ p.spritesOnNextLine p.scanline)) }

/-- The mapper's scanline clock of dot 260 (61 R537). -/
def State.scanlineClock (s : State) : State :=
  if s.ppu.renderingEnabled then
    { s with cart := s.cart.map (·.onPpuScanline s.ppu.scanline) }
  else s

/-- Vblank entry at (241, 1) (61 R531, 60 R404). -/
def State.enterVblank (s : State) : State :=
  { s with
    ppu := { s.ppu with vblank := true, pulseVblankStart := true }
    nmiPending := s.nmiPending || s.ppu.nmiEnabled }

/-- The pre-render clear at (261, 1) (61 R532). -/
def Ppu.preRenderClear (p : Ppu) : Ppu :=
  { p with vblank := false, spriteZeroHit := false, spriteOverflow := false }

/-- The events of the current coordinate (61 R539). -/
def State.dotEvents (s : State) : State :=
  let line := s.ppu.scanline
  let dot := s.ppu.dot
  if line < 240 then
    if dot = 0 then s.takeSnapshot
    else if dot ≤ 256 then s.spriteZeroTest (dot - 1)
    else if dot = 257 then { s with ppu := s.ppu.overflowTest }
    else if dot = 260 then s.scanlineClock
    else s
  else if line = 241 then
    if dot = 1 then s.enterVblank else s
  else if line = 261 then
    if dot = 1 then { s with ppu := s.ppu.preRenderClear }
    else if dot = 260 then s.scanlineClock
    else s
  else s

/-- One open-bus group's age and bits a dot later (61 R521, R538): an age that has reached
`OpenBusDecayDots` has stopped. An age short of the lower bound of that parameter is short of it. -/
def ageGroup (age : Nat) (bits : Byte) : Nat × Byte :=
  if age + 1 < Config.openBusDecayMin then (age + 1, bits)
  else if age < Config.openBusDecayDots then
    (age + 1, if age + 1 = Config.openBusDecayDots then 0 else bits)
  else (age, bits)

/-- `OpenBusAge()` (61 R538), for bits 4–0, bit 5 and bits 7–6. -/
def Ppu.openBusAge (p : Ppu) : Ppu :=
  let lo := ageGroup p.ageLo (p.ob &&& 0x1F)
  let b5 := ageGroup p.ageB5 (p.ob &&& 0x20)
  let hi := ageGroup p.ageHi (p.ob &&& 0xC0)
  { p with ageLo := lo.1, ageB5 := b5.1, ageHi := hi.1, ob := lo.2 ||| b5.2 ||| hi.2 }

/-- The coordinate advance (61 R530) with the frame-start pulse (61 R536). -/
def Ppu.advance (p : Ppu) : Ppu :=
  if p.dot + 1 = 341 then
    if p.scanline + 1 = 262 then { p with dot := 0, scanline := 0, pulseFrameStart := true }
    else { p with dot := 0, scanline := p.scanline + 1 }
  else { p with dot := p.dot + 1 }

/-- `PpuDot()` (61 R530). -/
def State.ppuDot (s : State) : State :=
  let s := s.dotEvents
  { s with ppu := s.ppu.openBusAge.advance }

/-- `n` dots. -/
def State.ppuDots : Nat → State → State
  | 0, s => s
  | n + 1, s => State.ppuDots n s.ppuDot

/-- The pulses read and cleared (61 R536). -/
def State.clearPulses (s : State) : State :=
  { s with ppu := { s.ppu with pulseVblankStart := false, pulseFrameStart := false } }

end Sys2Proof.Machine
end

