-- ==== Sys2Proof/Machine/System.lean ====
section
/-! DEFINITION. The processor step, the device ticks after it and the system step (60 R401, R417), and
how one instruction is put where the next step fetches it. -/

namespace Sys2Proof.Machine

/-! ### The processor step -/

/-- Fetch at PC (30 R125, R154): the opcode byte, then as many operand bytes as it has, each by
`MemRead`. -/
def State.fetch (s : State) : Instr × State :=
  let op := s.memRead s.pc
  if opLength op.1 = 1 then (decodeOp op.1 0 0, op.2)
  else
    let b1 := op.2.memRead (s.pc + 1)
    if opLength op.1 = 2 then (decodeOp op.1 b1.1 0, b1.2)
    else
      let b2 := b1.2.memRead (s.pc + 2)
      (decodeOp op.1 b1.1 b2.1, b2.2)

/-- `CpuStep()` (60 R401, R402). The step hook always continues (60 R418). -/
def State.cpuStep (s : State) : Outcome :=
  if s.nmiPending then .next s.nmiService
  else if s.irqLine && !s.p.i then .next s.irqService
  else exec s.fetch.1 s.fetch.2

/-! ### The device ticks -/

/-- The DMC memory reader (62 R670): a `Peek` of the CPU bus. -/
def State.dmcReader (s : State) : State :=
  if s.apu.dmc.wantsByte then
    let r := s.peek s.apu.dmc.curAddr
    { r.2 with apu := r.2.apu.dmcTakeByte r.1 }
  else s

/-- The units of one APU cycle before the memory reader, in the order of 62 R630. -/
def Apu.clockUnits (u : Apu) : Apu :=
  let u := { u with apuCycles := u.apuCycles + 1 }.frameSequencerCycle
  let even := u.apuCycles % 2 == 0
  { u with
    tri := u.tri.clockTimer
    pulse1 := if even then u.pulse1.clockTimer else u.pulse1
    pulse2 := if even then u.pulse2.clockTimer else u.pulse2
    noise := u.noise.clockTimer
    dmc := u.dmc.outputUnit }

/-- `ApuCycle()` (62 R630). -/
def State.apuCycle (s : State) : State :=
  let s := { s with apu := s.apu.clockUnits }.dmcReader
  { s with apu := { s.apu with out := s.apu.out.cycle s.apu.mix } }

/-- `ApuTick(n)` (62 R630). -/
def State.apuTicks : Nat → State → State
  | 0, s => s
  | n + 1, s => State.apuTicks n s.apuCycle

/-- The mapper's IRQ output (63 R715). -/
def State.mapperIrq (s : State) : Bool := s.cart.any (·.irq)

/-- The IRQ line recomputed from its sources (60 R406). -/
def State.sampleIrq (s : State) : State :=
  { s with irqLine := s.apu.frameIrq || s.apu.dmcIrq || s.mapperIrq }

/-- The mapper's `onCpuCycles` (63 R715). -/
def State.clockMapper (s : State) (elapsed : Nat) : State :=
  { s with cart := s.cart.map (·.onCpuCycles elapsed) }

/-- The ticks for `elapsed` cycles, in the order of 60 R417. -/
def State.tickDevices (elapsed : Nat) (s : State) : State :=
  let s := State.apuTicks elapsed (State.ppuDots (3 * elapsed) s)
  let s := (s.clockMapper elapsed).sampleIrq
  if s.ppu.pulseVblankStart then s.renderFrame else s

/-- `SystemStep()` (60 R417), with the pulses of the step still set. A machine without a cartridge is
refused (92 D57). -/
def State.systemStep (s : State) : Outcome :=
  match s.cart with
  | none => .refused .noCartridge
  | some _ =>
    match s.cpuStep with
    | .next t => .next (t.tickDevices (t.cycles - s.cycles))
    | .fault r => .fault r
    | .refused r => .refused r

/-- The orchestrator reads and clears the pulses after the step's ticks (61 R536, log 10). -/
def State.stepAndClear (s : State) : Outcome :=
  match s.systemStep with
  | .next t => .next t.clearPulses
  | .fault r => .fault r
  | .refused r => .refused r

/-! ### Placing one instruction (log 4) -/

/-- A blank NROM cartridge: 32 KB of PRG-ROM that is all $00, and 8 KB of CHR-RAM. -/
def blankCartridge : Cartridge where
  prgSize := 32768
  prgRom := ⟨.zero, []⟩
  chrSize := 8192
  chr := ⟨.drawn 4, []⟩
  chrIsRam := true
  mirroring := .horizontal
  battery := false
  headerVariant := 0
  mapperId := 0
  regs := ⟨[], []⟩

/-- Put a byte where `MemRead(a)` finds it: work RAM, and under mapper 0 PRG-RAM and PRG-ROM. Other
addresses hold no byte that can be placed. -/
def State.placeByte (s : State) (a : Addr) (v : Byte) : Option State :=
  if a < 0x2000#16 then some { s with ram := s.ram.write (ramIndex a) v }
  else if a < 0x6000#16 then none
  else
    match s.cart with
    | none => none
    | some c =>
      if !c.isNrom then none
      else if a < 0x8000#16 then some { s with prgRam := s.prgRam.write (prgRamIndex a) v }
      else
        some { s with
          cart := some { c with prgRom := c.prgRom.write ((a.toNat - 0x8000) % c.prgSize) v } }

/-- Put three consecutive bytes at PC. -/
def State.placeAtPc (s : State) (b : Byte × Byte × Byte) : Option State :=
  (s.placeByte s.pc b.1).bind fun s1 =>
    (s1.placeByte (s.pc + 1) b.2.1).bind fun s2 => s2.placeByte (s.pc + 2) b.2.2

/-- The bytes at PC, or, where PC stands at an address whose bytes cannot be placed, at $0000. -/
def State.placeBytes (s : State) (b : Byte × Byte × Byte) : State :=
  match s.placeAtPc b with
  | some t => t
  | none => ({ s with pc := 0 }.placeAtPc b).getD s

/-- What the next step needs in order to fetch: a cartridge, and no interrupt to serve first. -/
def State.readyToFetch (s : State) : State :=
  { s with nmiPending := false, irqLine := false, cart := some (s.cart.getD blankCartridge) }

end Sys2Proof.Machine
end

