-- ==== Sys2Proof/Machine/HostOps.lean ====
section
/-! DEFINITION. The host operations (60 R425): reset, load, stepFrame, setButton, drainAudioSamples.
They act between steps. -/

namespace Sys2Proof.Machine

/-- The state a reset leaves before the vector is read (70 R800–R808): every chip reset, the
unspecified memories drawn anew, the buttons and the cartridge's ROM as they were. -/
def State.resetChips (s : State) (c : Cartridge) : State :=
  let c := c.reset (s.draws + 4)
  { State.reset with
    ppu := Ppu.reset s.draws c.saveRenderState
    cart := some c
    pads := s.pads.reset
    draws := s.draws + 5 }

/-- `reset()` (70 R800): the chips, then PC from the reset vector through the bus (R802). Without a
cartridge there is no defined machine to reset (92 D57). -/
def State.hardReset (s : State) : Outcome :=
  match s.cart with
  | none => .refused .noCartridge
  | some c =>
    let r := (s.resetChips c).read16 resetVector
    .next (r.2.jump r.1)

/-- `load(romBytes)` (63 R712): on an error the machine is unchanged, so the answer is the error alone. -/
def State.load (bytes : List Byte) (s : State) : Outcome :=
  match parseRom bytes s.draws with
  | .error e => .fault e
  | .ok c =>
    match constructCartridge c with
    | .error e => .fault e
    | .ok c => { s with cart := some c, draws := s.draws + 1 }.hardReset

/-- `setButton(player, button, pressed)` (63 R740): bit order A, B, Select, Start, Up, Down, Left,
Right. -/
def State.setButton (second : Bool) (button : Fin 8) (pressed : Bool) (s : State) : State :=
  let q := s.pads.pad second
  let m : Byte := 1 <<< button.val
  let b := if pressed then q.buttons ||| m else q.buttons &&& ~~~m
  { s with pads := s.pads.setPad second { q with buttons := b } }

/-- `drainAudioSamples(maxFrames)` (62 R682): the frames removed, oldest first, and the machine. -/
def State.drainAudioSamples (maxFrames : Nat) (s : State) : List (Rat × Rat) × State :=
  let o := s.apu.out
  (o.ring.take maxFrames, { s with apu := { s.apu with out := { o with ring := o.ring.drop maxFrames } } })

/-- System steps until a frame-start pulse after a vblank-start pulse, at most `n` of them
(60 R425); `seen` says that the vblank-start pulse has been seen. -/
def State.runFrame : (n : Nat) → (seen : Bool) → State → Outcome
  | 0, _, s => .next s
  | n + 1, seen, s =>
    match s.systemStep with
    | .next t =>
      let seen := seen || t.ppu.pulseVblankStart
      if seen && t.ppu.pulseFrameStart then .next t.clearPulses
      else State.runFrame n seen t.clearPulses
    | .fault r => .fault r
    | .refused r => .refused r

/-- `stepFrame()` (60 R425), with the open `InstructionCap` (92 D40). DESIGN CHOICE: only a vblank-start pulse
of the call's own steps counts, so a call begun inside vblank runs on to the end of the next frame. Log 14. -/
def State.stepFrame (s : State) : Outcome := s.runFrame Config.instructionCap false

end Sys2Proof.Machine
end

