-- ==== Sys2Proof/Machine/Step.lean ====
section
/-! DEFINITION. One step of the machine, and the placing of one instruction where it fetches. -/

namespace Sys2Proof.Machine

/-- One system step (60 R417): `stepInstruction()` of 60 R425. -/
def step (s : State) : Host.Outcome State Fault Refusal := s.stepAndClear

/-- The machine with the instruction of bits `w` stored where `step` fetches next: the bytes at PC,
a blank cartridge if none is loaded, and no interrupt in front of the fetch (log 4). -/
def State.withFetchWord (s : State) (nbits w : Nat) : State :=
  s.readyToFetch.placeBytes (tableBytes nbits w)

end Sys2Proof.Machine
end

