-- ==== Sys2Proof/Safety.lean ====
section
/-! DEFINITION. What a good state is between two steps, and what a safe step is. -/

namespace Sys2Proof.Machine

/-- The cartridge holds memories of its sizes (63 R700, R708). -/
structure Cartridge.Inv (c : Cartridge) : Prop where
  prg_nonempty : 0 < c.prgSize
  chr_nonempty : 0 < c.chrSize
  prgRom_wf : c.prgRom.wf c.prgSize
  chr_wf : c.chr.wf c.chrSize

/-- The video chip's ranges (61 R500, R530, R536) and canonical memories. -/
structure Ppu.Inv (p : Ppu) : Prop where
  oam_wf : p.oam.wf 256
  palette_wf : p.palette.wf 32
  palette_six_bits : ∀ c ∈ p.palette.cells, c.2.toNat < 64
  ciram_wf : p.ciram.wf 4096
  scanline_range : p.scanline < 262
  dot_range : p.dot < 341
  snap_count : p.snap.length = 240
  ageLo_bound : p.ageLo ≤ Config.openBusDecayDots
  ageB5_bound : p.ageB5 ≤ Config.openBusDecayDots
  ageHi_bound : p.ageHi ≤ Config.openBusDecayDots

/-- The period of the frame sequencer's mode (62 R640). -/
def FrameSequencer.period (f : FrameSequencer) : Nat := if f.mode then 37282 else 29830

/-- The audio chip's ranges (62 R601–R605, R640, R660, R682). -/
structure Apu.Inv (u : Apu) : Prop where
  noise_alive : u.noise.shift ≠ 0
  counter_range : u.fs.counter < u.fs.period
  bitsLeft_range : u.dmc.bitsLeft ≤ 8
  length1_range : u.pulse1.length.toNat ≤ 254
  length2_range : u.pulse2.length.toNat ≤ 254
  lengthT_range : u.tri.length.toNat ≤ 254
  lengthN_range : u.noise.length.toNat ≤ 254
  ring_bound : u.out.ring.length ≤ Config.audioRingCapacity

/-- The invariant of the machine between two accesses. -/
structure State.Inv (s : State) : Prop where
  ram_wf : s.ram.wf 2048
  prgRam_wf : s.prgRam.wf 8192
  ppu : s.ppu.Inv
  apu : s.apu.Inv
  cart : ∀ c, s.cart = some c → c.Inv
  pad0_count : s.pads.pad0.count ≤ 8
  pad1_count : s.pads.pad1.count ≤ 8

/-- A safe step: the machine goes on. -/
def SafeStep (s : State) : Prop := ∃ t, step s = .next t

end Sys2Proof.Machine
end

