-- ==== Sys2Proof/Certificates/Slice0/Obligations.lean ====
section
/-! DEFINITION. The statements for the provers. The vocabulary they are written in stands in the namespace
Sys2Proof.Ref: rows of the opcode table as the rules list them, arithmetic on Nat and Int, and predicates
"this instruction answers this next state". -/

open Sys2Proof Sys2Proof.Machine

/-! ## Vocabulary -/

namespace Sys2Proof.Ref

/-- A row of an instruction's rule: mode, opcode byte, base cycles, page-cross penalty (30 R155). -/
abbrev Row := ModeName × Byte × Nat × Bool

/-- The eight forms of LDA, ADC, SBC, AND, ORA, EOR and CMP, with their base cycles. -/
def rowsAlu (imm zp zpx abs absx absy izx izy : Byte) : List Row :=
  [(.imm, imm, 2, false), (.zp, zp, 3, false), (.zpx, zpx, 4, false), (.abs, abs, 4, false),
   (.absx, absx, 4, true), (.absy, absy, 4, true), (.izx, izx, 6, false), (.izy, izy, 5, true)]

/-- The memory forms of the shifts, INC and DEC. -/
def rowsModify (zp zpx abs absx : Byte) : List Row :=
  [(.zp, zp, 5, false), (.zpx, zpx, 6, false), (.abs, abs, 6, false), (.absx, absx, 7, false)]

/-- The seven forms of the combined read-modify-write opcodes (46 R360). -/
def rowsCombined (zp zpx abs absx absy izx izy : Byte) : List Row :=
  [(.zp, zp, 5, false), (.zpx, zpx, 6, false), (.abs, abs, 6, false), (.absx, absx, 7, false),
   (.absy, absy, 7, false), (.izx, izx, 8, false), (.izy, izy, 8, false)]

/-- N and Z of a byte (00 R12), V, D, I and C kept. -/
def nz (p : Flags) (v : Byte) : Flags := { p with z := decide (v = 0), n := decide (128 ≤ v.toNat) }

/-- The operand an instruction reads, and the machine after the reads its mode makes (30 R131–R141). -/
def operand (s : State) (m : AddrMode) : Byte × State :=
  match m with
  | .acc => (s.a, s)
  | .imm v => (v, s)
  | _ => (s.locate m).state.memRead (s.locate m).ea

/-- The bus write of a byte, less the cycles of an OAM DMA it starts (20 R87). -/
def store (s : State) (ea : Addr) (v : Byte) : State :=
  if ea = 0x4014#16 then s.dmaCopy v 256 0 else s.memWrite ea v

/-- The cycles an OAM DMA adds to an instruction that writes `ea`, `c` being the counter after the
instruction's own cost (20 R87). -/
def dmaCycles (ea : Addr) (c : Nat) : Nat := if ea = 0x4014#16 then 513 + c % 2 else 0

/-- The instruction `i` has the forms `rows`, reads its operand once and answers the next state `effect`
of it and of the machine after the reads, with PC past the instruction and the row's cost charged. -/
def Reads (rows : List Row) (i : AddrMode → Instr) (effect : Byte → State → State) : Prop :=
  ∀ row ∈ rows, ∀ (m : AddrMode) (s : State), m.name = row.1 →
    encode (i m) = row.2.1 :: m.bytes ∧
    exec (i m) s = .next { effect (operand s m).1 (operand s m).2 with
      pc := s.pc + BitVec.ofNat 16 (1 + m.bytes.length)
      cycles := s.cycles + row.2.2.1 + (row.2.2.2 && (s.locate m).cross).toNat }

/-- The instruction `i` has the forms `rows` and stores the byte `value` of the machine, reading no data. -/
def Stores (rows : List Row) (i : AddrMode → Instr) (value : State → Byte) : Prop :=
  ∀ row ∈ rows, ∀ (m : AddrMode) (s : State), m.name = row.1 →
    encode (i m) = row.2.1 :: m.bytes ∧
    exec (i m) s = .next { store (s.locate m).state (s.locate m).ea (value s) with
      pc := s.pc + BitVec.ofNat 16 (1 + m.bytes.length)
      cycles := s.cycles + row.2.2.1 + dmaCycles (s.locate m).ea (s.cycles + row.2.2.1) }

/-- One read and one write of an operand: the byte read, the byte stored, and the machine after both. -/
def modified (s : State) (m : AddrMode) (f : Byte → Byte) : Byte × Byte × State :=
  match m with
  | .acc => (s.a, f s.a, { s with a := f s.a })
  | _ =>
    let r := (s.locate m).state.memRead (s.locate m).ea
    (r.1, f r.1, store r.2 (s.locate m).ea (f r.1))

/-- The instruction `i` has the forms `rows`, reads its operand once, stores `f` of it and of the carry
before, and then answers `finish` of the byte read, the byte stored and the machine. -/
def Modifies (rows : List Row) (i : AddrMode → Instr) (f : Bool → Byte → Byte)
    (finish : Byte → Byte → State → State) : Prop :=
  ∀ row ∈ rows, ∀ (m : AddrMode) (s : State), m.name = row.1 →
    encode (i m) = row.2.1 :: m.bytes ∧
    exec (i m) s = .next {
      finish (modified s m (f s.p.c)).1 (modified s m (f s.p.c)).2.1 (modified s m (f s.p.c)).2.2 with
      pc := s.pc + BitVec.ofNat 16 (1 + m.bytes.length)
      cycles := s.cycles + row.2.2.1 + dmaCycles (s.locate m).ea (s.cycles + row.2.2.1) }

/-- The one-byte instruction `i` answers `effect`, with PC past it and `base` cycles charged. -/
def Implied (i : Instr) (op : Byte) (base : Nat) (effect : State → State) : Prop :=
  encode i = [op] ∧
  ∀ s, exec i s = .next { effect s with pc := s.pc + 1, cycles := s.cycles + base }

/-- A register written together with its N and Z. -/
def setA (v : Byte) (s : State) : State := { s with a := v, p := nz s.p v }
def setX (v : Byte) (s : State) : State := { s with x := v, p := nz s.p v }
def setY (v : Byte) (s : State) : State := { s with y := v, p := nz s.p v }

/-- Add with carry (42 R250): the sum of the unsigned values modulo 256; C says that it passed 255, V
that the sum of the two's-complement values left −128..127. -/
def adc (v : Byte) (s : State) : State :=
  let sum := s.a.toNat + v.toNat + s.p.c.toNat
  let signed := s.a.toInt + v.toInt + (s.p.c.toNat : Int)
  { s with
    a := BitVec.ofNat 8 sum
    p := { nz s.p (BitVec.ofNat 8 sum) with
      c := decide (256 ≤ sum), v := decide (signed < -128 ∨ 127 < signed) } }

/-- Subtract with borrow (42 R251): `A - M - (1 - C)` modulo 256; C says that no borrow occurred, V that
the difference of the two's-complement values left −128..127. -/
def sbc (v : Byte) (s : State) : State :=
  let diff : Int := s.a.toNat - v.toNat - (1 - s.p.c.toNat)
  let signed : Int := s.a.toInt - v.toInt - (1 - s.p.c.toNat)
  { s with
    a := BitVec.ofInt 8 diff
    p := { nz s.p (BitVec.ofInt 8 diff) with
      c := decide (0 ≤ diff), v := decide (signed < -128 ∨ 127 < signed) } }

/-- The flags of a comparison of `r` with `v` (42, `Compare`): C the unsigned order, Z equality, N bit 7
of the difference modulo 256; V, D and I kept. -/
def compare (r v : Byte) (s : State) : State :=
  { s with p := { s.p with
      c := decide (v.toNat ≤ r.toNat)
      z := decide (r = v)
      n := decide (128 ≤ (r.toNat + 256 - v.toNat) % 256) } }

/-- C written alone. -/
def setC (b : Bool) (s : State) : State := { s with p := { s.p with c := b } }

/-- Shift left, the bit `c` coming in at bit 0. -/
def shiftLeft (c : Bool) (v : Byte) : Byte := BitVec.ofNat 8 (2 * v.toNat + c.toNat)

/-- Shift right, the bit `c` coming in at bit 7. -/
def shiftRight (c : Bool) (v : Byte) : Byte := BitVec.ofNat 8 (v.toNat / 2 + 128 * c.toNat)

/-- Bit 7 and bit 0 of a byte. -/
def top (v : Byte) : Bool := decide (128 ≤ v.toNat)
def bottom (v : Byte) : Bool := decide (v.toNat % 2 = 1)

end Sys2Proof.Ref

open Sys2Proof.Ref

/-! ## Instruction results and frames

Each answers a next state equal to an expression, so it is completion, result and frame at once: every
register, flag, device and byte of memory the expression does not name is as it was. -/

/-- LDA, LDX, LDY and LAX (40 R201–R203, 46 R361). -/
def Obligations.LoadResults : Prop :=
  Reads (rowsAlu 0xA9 0xA5 0xB5 0xAD 0xBD 0xB9 0xA1 0xB1) .lda setA ∧
  Reads [(.imm, 0xA2, 2, false), (.zp, 0xA6, 3, false), (.zpy, 0xB6, 4, false), (.abs, 0xAE, 4, false),
    (.absy, 0xBE, 4, true)] .ldx setX ∧
  Reads [(.imm, 0xA0, 2, false), (.zp, 0xA4, 3, false), (.zpx, 0xB4, 4, false), (.abs, 0xAC, 4, false),
    (.absx, 0xBC, 4, true)] .ldy setY ∧
  Reads [(.zp, 0xA7, 3, false), (.zpy, 0xB7, 4, false), (.abs, 0xAF, 4, false), (.absy, 0xBF, 4, true),
    (.izx, 0xA3, 6, false), (.izy, 0xB3, 5, true)] .lax
    (fun v s => { s with a := v, x := v, p := nz s.p v })

/-- STA, STX, STY and SAX (40 R204–R206, 46 R362): no flag, no data read. -/
def Obligations.StoreResults : Prop :=
  Stores [(.zp, 0x85, 3, false), (.zpx, 0x95, 4, false), (.abs, 0x8D, 4, false), (.absx, 0x9D, 5, false),
    (.absy, 0x99, 5, false), (.izx, 0x81, 6, false), (.izy, 0x91, 6, false)] .sta (·.a) ∧
  Stores [(.zp, 0x86, 3, false), (.zpy, 0x96, 4, false), (.abs, 0x8E, 4, false)] .stx (·.x) ∧
  Stores [(.zp, 0x84, 3, false), (.zpx, 0x94, 4, false), (.abs, 0x8C, 4, false)] .sty (·.y) ∧
  Stores [(.zp, 0x87, 3, false), (.zpy, 0x97, 4, false), (.abs, 0x8F, 4, false), (.izx, 0x83, 6, false)]
    .sax (fun s => s.a &&& s.x)

/-- TAX, TAY, TXA, TYA, TSX and TXS (40 R207–R212); TXS writes no flag. -/
def Obligations.TransferResults : Prop :=
  Implied .tax 0xAA 2 (fun s => setX s.a s) ∧
  Implied .tay 0xA8 2 (fun s => setY s.a s) ∧
  Implied .txa 0x8A 2 (fun s => setA s.x s) ∧
  Implied .tya 0x98 2 (fun s => setA s.y s) ∧
  Implied .tsx 0xBA 2 (fun s => setX s.sp s) ∧
  Implied .txs 0x9A 2 (fun s => { s with sp := s.x })

/-- PHA, PHP, PLA and PLP (41 R230–R233) in terms of work RAM. The byte PHP pushes is P with bits 5 and 4
set; PLP takes N, V, D, I, Z and C from bits 7, 6, 3, 2, 1 and 0. -/
def Obligations.StackResults : Prop :=
  Implied .pha 0x48 3 (fun s =>
    { s with ram := s.ram.write (256 + s.sp.toNat) s.a, sp := s.sp - 1 }) ∧
  Implied .php 0x08 3 (fun s =>
    { s with ram := s.ram.write (256 + s.sp.toNat) (s.p.toByte ||| 0x30), sp := s.sp - 1 }) ∧
  Implied .pla 0x68 4 (fun s =>
    setA (s.ram.read (256 + (s.sp + 1).toNat)) { s with sp := s.sp + 1 }) ∧
  Implied .plp 0x28 4 (fun s =>
    let v := s.ram.read (256 + (s.sp + 1).toNat)
    { s with
      sp := s.sp + 1
      p := ⟨v.getLsbD 7, v.getLsbD 6, v.getLsbD 3, v.getLsbD 2, v.getLsbD 1, v.getLsbD 0⟩ })

/-- ADC, SBC and the duplicate SBC at $EB (42 R250, R251; 46 R369), D having no effect. -/
def Obligations.AddSubtractResults : Prop :=
  Reads (rowsAlu 0x69 0x65 0x75 0x6D 0x7D 0x79 0x61 0x71) .adc adc ∧
  Reads (rowsAlu 0xE9 0xE5 0xF5 0xED 0xFD 0xF9 0xE1 0xF1) .sbc sbc ∧
  ∀ (v : Byte) (s : State), encode (.sbcEB v) = [0xEB, v] ∧
    exec (.sbcEB v) s = .next { sbc v s with pc := s.pc + 2, cycles := s.cycles + 2 }

/-- AND, ORA, EOR and BIT (42 R252–R255). -/
def Obligations.LogicResults : Prop :=
  Reads (rowsAlu 0x29 0x25 0x35 0x2D 0x3D 0x39 0x21 0x31) .and (fun v s => setA (s.a &&& v) s) ∧
  Reads (rowsAlu 0x09 0x05 0x15 0x0D 0x1D 0x19 0x01 0x11) .ora (fun v s => setA (s.a ||| v) s) ∧
  Reads (rowsAlu 0x49 0x45 0x55 0x4D 0x5D 0x59 0x41 0x51) .eor (fun v s => setA (s.a ^^^ v) s) ∧
  Reads [(.zp, 0x24, 3, false), (.abs, 0x2C, 4, false)] .bit (fun v s =>
    { s with p := { s.p with z := decide (s.a &&& v = 0), n := v.getLsbD 7, v := v.getLsbD 6 } })

/-- CMP, CPX and CPY (42 R256–R258): three flags and nothing else. -/
def Obligations.CompareResults : Prop :=
  Reads (rowsAlu 0xC9 0xC5 0xD5 0xCD 0xDD 0xD9 0xC1 0xD1) .cmp (fun v s => compare s.a v s) ∧
  Reads [(.imm, 0xE0, 2, false), (.zp, 0xE4, 3, false), (.abs, 0xEC, 4, false)] .cpx
    (fun v s => compare s.x v s) ∧
  Reads [(.imm, 0xC0, 2, false), (.zp, 0xC4, 3, false), (.abs, 0xCC, 4, false)] .cpy
    (fun v s => compare s.y v s)

/-- INC and DEC (42 R259, R260): C and V kept. -/
def Obligations.IncrementMemoryResults : Prop :=
  Modifies (rowsModify 0xE6 0xF6 0xEE 0xFE) .inc (fun _ v => BitVec.ofNat 8 (v.toNat + 1))
    (fun _ r s => { s with p := nz s.p r }) ∧
  Modifies (rowsModify 0xC6 0xD6 0xCE 0xDE) .dec (fun _ v => BitVec.ofNat 8 (v.toNat + 255))
    (fun _ r s => { s with p := nz s.p r })

/-- INX, INY, DEX and DEY (42 R261–R264). -/
def Obligations.IncrementRegisterResults : Prop :=
  Implied .inx 0xE8 2 (fun s => setX (s.x + 1) s) ∧
  Implied .iny 0xC8 2 (fun s => setY (s.y + 1) s) ∧
  Implied .dex 0xCA 2 (fun s => setX (s.x - 1) s) ∧
  Implied .dey 0x88 2 (fun s => setY (s.y - 1) s)

/-- ASL, LSR, ROL and ROR (43 R291–R294), accumulator form included: C is the bit shifted out, N and Z are
of the result, V is kept. -/
def Obligations.ShiftResults : Prop :=
  Modifies ((.acc, 0x0A, 2, false) :: rowsModify 0x06 0x16 0x0E 0x1E) .asl (fun _ => shiftLeft false)
    (fun m r s => { setC (top m) s with p := nz (setC (top m) s).p r }) ∧
  Modifies ((.acc, 0x4A, 2, false) :: rowsModify 0x46 0x56 0x4E 0x5E) .lsr (fun _ => shiftRight false)
    (fun m r s => { setC (bottom m) s with p := nz (setC (bottom m) s).p r }) ∧
  Modifies ((.acc, 0x2A, 2, false) :: rowsModify 0x26 0x36 0x2E 0x3E) .rol shiftLeft
    (fun m r s => { setC (top m) s with p := nz (setC (top m) s).p r }) ∧
  Modifies ((.acc, 0x6A, 2, false) :: rowsModify 0x66 0x76 0x6E 0x7E) .ror shiftRight
    (fun m r s => { setC (bottom m) s with p := nz (setC (bottom m) s).p r })

/-- JMP (44 R310): PC is the address, or the word at the pointer whose high byte is read from the pointer's
own page. -/
def Obligations.JumpResults : Prop :=
  (∀ (a : Addr) (s : State), encode (.jmp (.abs a)) = [0x4C, loByte a, hiByte a] ∧
    exec (.jmp (.abs a)) s = .next { s with pc := a, cycles := s.cycles + 3 }) ∧
  (∀ (p : Addr) (s : State), encode (.jmp (.ind p)) = [0x6C, loByte p, hiByte p] ∧
    let lo := s.memRead p
    let hi := lo.2.memRead (BitVec.ofNat 16 (p.toNat / 256 * 256 + (p.toNat + 1) % 256))
    exec (.jmp (.ind p)) s = .next { hi.2 with
      pc := BitVec.ofNat 16 (256 * hi.1.toNat + lo.1.toNat), cycles := s.cycles + 5 })

/-- JSR and RTS (44 R311, R312) in terms of work RAM: the address of JSR's last byte goes on the stack, high
byte first. -/
def Obligations.CallResults : Prop :=
  (∀ (a : Addr) (s : State), encode (.jsr a) = [0x20, loByte a, hiByte a] ∧
    exec (.jsr a) s = .next { s with
      ram := (s.ram.write (256 + s.sp.toNat) (BitVec.ofNat 8 ((s.pc + 2).toNat / 256))).write
        (256 + (s.sp - 1).toNat) (BitVec.ofNat 8 (s.pc + 2).toNat)
      sp := s.sp - 2
      pc := a
      cycles := s.cycles + 6 }) ∧
  (encode .rts = [0x60] ∧ ∀ s : State,
    exec .rts s = .next { s with
      sp := s.sp + 2
      pc := BitVec.ofNat 16 (256 * (s.ram.read (256 + (s.sp + 2).toNat)).toNat
        + (s.ram.read (256 + (s.sp + 1).toNat)).toNat + 1)
      cycles := s.cycles + 6 })

/-- BRK (44 R314, 60 R408): PC + 2 and `P | $30` on the stack, I set, PC from $FFFE; the other flags and A,
X, Y as they were; I does not mask it. -/
def Obligations.BreakResult : Prop :=
  encode .brk = [0x00] ∧ ∀ s : State,
    let t := { s with
      ram := ((s.ram.write (256 + s.sp.toNat) (BitVec.ofNat 8 ((s.pc + 2).toNat / 256))).write
        (256 + (s.sp - 1).toNat) (BitVec.ofNat 8 (s.pc + 2).toNat)).write
        (256 + (s.sp - 2).toNat) (s.p.toByte ||| 0x30)
      sp := s.sp - 3
      p := { s.p with i := true } }
    let lo := t.memRead 0xFFFE
    let hi := lo.2.memRead 0xFFFF
    exec .brk s = .next { hi.2 with
      pc := BitVec.ofNat 16 (256 * hi.1.toNat + lo.1.toNat), cycles := s.cycles + 7 }

/-- RTI (44 R313): all six flags from the pulled byte, then the pulled PC exactly. -/
def Obligations.ReturnFromInterruptResult : Prop :=
  encode .rti = [0x40] ∧ ∀ s : State,
    let v := s.ram.read (256 + (s.sp + 1).toNat)
    exec .rti s = .next { s with
      p := ⟨v.getLsbD 7, v.getLsbD 6, v.getLsbD 3, v.getLsbD 2, v.getLsbD 1, v.getLsbD 0⟩
      sp := s.sp + 3
      pc := BitVec.ofNat 16 (256 * (s.ram.read (256 + (s.sp + 3).toNat)).toNat
        + (s.ram.read (256 + (s.sp + 2).toNat)).toNat)
      cycles := s.cycles + 6 }

namespace Sys2Proof.Ref

/-- The branch `i` with opcode `op` and condition `cond` (44 R315): PC and cycles are all it writes. The
target is PC + 2 plus the signed offset, modulo 65536. -/
def Branches (i : Byte → Instr) (op : Byte) (cond : Flags → Bool) : Prop :=
  ∀ (off : Byte) (s : State), encode (i off) = [op, off] ∧
    let next := (s.pc.toNat + 2) % 65536
    let target := (((s.pc.toNat : Int) + 2 + off.toInt) % 65536).toNat
    (cond s.p = true → exec (i off) s = .next { s with
      pc := BitVec.ofNat 16 target
      cycles := s.cycles + 2 + 1 + if next / 256 ≠ target / 256 then 1 else 0 }) ∧
    (cond s.p = false → exec (i off) s = .next { s with
      pc := BitVec.ofNat 16 next, cycles := s.cycles + 2 })

/-- The NOP form `i` reads its operand, drops it, and answers the machine after the reads. -/
def Drops (i : Instr) (m : AddrMode) (base : Nat) (penalty : Bool) : Prop :=
  ∀ s : State, exec i s = .next { (operand s m).2 with
    pc := s.pc + BitVec.ofNat 16 (1 + m.bytes.length)
    cycles := s.cycles + base + (penalty && (s.locate m).cross).toNat }

end Sys2Proof.Ref

/-- The eight branches (44 R315–R323). -/
def Obligations.BranchResults : Prop :=
  Branches .bpl 0x10 (fun p => !p.n) ∧ Branches .bmi 0x30 (fun p => p.n) ∧
  Branches .bvc 0x50 (fun p => !p.v) ∧ Branches .bvs 0x70 (fun p => p.v) ∧
  Branches .bcc 0x90 (fun p => !p.c) ∧ Branches .bcs 0xB0 (fun p => p.c) ∧
  Branches .bne 0xD0 (fun p => !p.z) ∧ Branches .beq 0xF0 (fun p => p.z)

/-- The flag instructions and the official NOP (45 R340–R347). -/
def Obligations.FlagResults : Prop :=
  Implied .clc 0x18 2 (fun s => { s with p := { s.p with c := false } }) ∧
  Implied .sec 0x38 2 (fun s => { s with p := { s.p with c := true } }) ∧
  Implied .cli 0x58 2 (fun s => { s with p := { s.p with i := false } }) ∧
  Implied .sei 0x78 2 (fun s => { s with p := { s.p with i := true } }) ∧
  Implied .clv 0xB8 2 (fun s => { s with p := { s.p with v := false } }) ∧
  Implied .cld 0xD8 2 (fun s => { s with p := { s.p with d := false } }) ∧
  Implied .sed 0xF8 2 (fun s => { s with p := { s.p with d := true } }) ∧
  Implied .nop 0xEA 2 (fun s => s)

/-- SLO, RLA, SRE and RRA (46 R363–R366); RRA adds with the carry its rotate shifted out. -/
def Obligations.ShiftAndLogicResults : Prop :=
  Modifies (rowsCombined 0x07 0x17 0x0F 0x1F 0x1B 0x03 0x13) .slo (fun _ => shiftLeft false)
    (fun m r s => setA (s.a ||| r) (setC (top m) s)) ∧
  Modifies (rowsCombined 0x27 0x37 0x2F 0x3F 0x3B 0x23 0x33) .rla shiftLeft
    (fun m r s => setA (s.a &&& r) (setC (top m) s)) ∧
  Modifies (rowsCombined 0x47 0x57 0x4F 0x5F 0x5B 0x43 0x53) .sre (fun _ => shiftRight false)
    (fun m r s => setA (s.a ^^^ r) (setC (bottom m) s)) ∧
  Modifies (rowsCombined 0x67 0x77 0x6F 0x7F 0x7B 0x63 0x73) .rra shiftRight
    (fun m r s => adc r (setC (bottom m) s))

/-- DCP and ISB (46 R367, R368). -/
def Obligations.StepAndArithmeticResults : Prop :=
  Modifies (rowsCombined 0xC7 0xD7 0xCF 0xDF 0xDB 0xC3 0xD3) .dcp
    (fun _ v => BitVec.ofNat 8 (v.toNat + 255)) (fun _ r s => compare s.a r s) ∧
  Modifies (rowsCombined 0xE7 0xF7 0xEF 0xFF 0xFB 0xE3 0xF3) .isb
    (fun _ v => BitVec.ofNat 8 (v.toNat + 1)) (fun _ r s => sbc r s)

/-- The illegal NOPs (46 R370–R375): the operand is read, with the side effects of the read, and dropped. -/
def Obligations.IllegalNopResults : Prop :=
  (∀ op ∈ ([0x1A, 0x3A, 0x5A, 0x7A, 0xDA, 0xFA] : List Byte), Implied (.nopImp op) op 2 (fun s => s)) ∧
  (∀ op ∈ ([0x80, 0x82, 0x89, 0xC2, 0xE2] : List Byte), ∀ v, encode (.nopImm op v) = [op, v] ∧
    Drops (.nopImm op v) (.imm v) 2 false) ∧
  (∀ op ∈ ([0x04, 0x44, 0x64] : List Byte), ∀ a, encode (.nopZp op a) = [op, a] ∧
    Drops (.nopZp op a) (.zp a) 3 false) ∧
  (∀ op ∈ ([0x14, 0x34, 0x54, 0x74, 0xD4, 0xF4] : List Byte), ∀ a, encode (.nopZpx op a) = [op, a] ∧
    Drops (.nopZpx op a) (.zpx a) 4 false) ∧
  (∀ a, encode (.nopAbs a) = [0x0C, loByte a, hiByte a] ∧ Drops (.nopAbs a) (.abs a) 4 false) ∧
  (∀ op ∈ ([0x1C, 0x3C, 0x5C, 0x7C, 0xDC, 0xFC] : List Byte), ∀ a,
    encode (.nopAbsx op a) = [op, loByte a, hiByte a] ∧ Drops (.nopAbsx op a) (.absx a) 4 true)

/-- The 25 unimplemented opcodes (46 R376) under the policy `nop2`, which is the model's (log 5): one byte,
two cycles, nothing else. -/
def Obligations.UnimplementedResults : Prop :=
  (∀ op ∈ ([0x02, 0x12, 0x22, 0x32, 0x42, 0x52, 0x62, 0x72, 0x92, 0xB2, 0xD2, 0xF2] : List Byte),
    Implied (.jam op) op 2 (fun s => s)) ∧
  (∀ op ∈ ([0x0B, 0x2B] : List Byte), Implied (.anc op) op 2 (fun s => s)) ∧
  (∀ op ∈ ([0x93, 0x9F] : List Byte), Implied (.ahx op) op 2 (fun s => s)) ∧
  Implied .alr 0x4B 2 (fun s => s) ∧ Implied .arr 0x6B 2 (fun s => s) ∧ Implied .xaa 0x8B 2 (fun s => s) ∧
  Implied .lxa 0xAB 2 (fun s => s) ∧ Implied .axs 0xCB 2 (fun s => s) ∧ Implied .tas 0x9B 2 (fun s => s) ∧
  Implied .shy 0x9C 2 (fun s => s) ∧ Implied .shx 0x9E 2 (fun s => s) ∧ Implied .las 0xBB 2 (fun s => s)

/-! ## Encoding -/

/-- Decoding an encoded well-formed instruction gives it back, whatever follows it (30 R120, R154). -/
def Obligations.DecodeEncode : Prop :=
  ∀ (i : Instr) (rest : List Byte), i.WellFormed → decode (encode i ++ rest) = .ok (i, rest)

/-- What decodes is well-formed and is read from exactly its own bytes; the length depends on the opcode
byte alone, and bytes decode exactly when all of that length are there (30 R121, R154). -/
def Obligations.EncodeDecode : Prop :=
  (∀ (bytes rest : List Byte) (i : Instr), decode bytes = .ok (i, rest) →
    i.WellFormed ∧ encode i ++ rest = bytes) ∧
  ∀ op : Byte, ∃ n, 1 ≤ n ∧ n ≤ 3 ∧ ∀ tail : List Byte,
    (n ≤ tail.length + 1 → ∃ i, decode (op :: tail) = .ok (i, tail.drop (n - 1)) ∧ i.length = n) ∧
    (tail.length + 1 < n → ∃ e, decode (op :: tail) = .error e)

/-- Words written out bit by bit from the "Encoding" lines of the rules, one for each family. -/
def Obligations.SpecWordsDecode : Prop :=
  decode [0b10101001, 0b10000000] = .ok (.lda (.imm 0x80), []) ∧
  decode [0b10001101, 0b00000000, 0b00000010] = .ok (.sta (.abs 0x0200), []) ∧
  decode [0b01001000] = .ok (.pha, []) ∧
  decode [0b01110001, 0b00010000] = .ok (.adc (.izy 0x10), []) ∧
  decode [0b01111110, 0b00110100, 0b00010010] = .ok (.ror (.absx 0x1234), []) ∧
  decode [0b01101100, 0b11111111, 0b00000010] = .ok (.jmp (.ind 0x02FF), []) ∧
  decode [0b11010000, 0b11110000] = .ok (.bne 0xF0, []) ∧
  decode [0b01111000] = .ok (.sei, []) ∧
  decode [0b11110011, 0b01000100] = .ok (.isb (.izy 0x44), []) ∧
  decode [0b00011100, 0b11111111, 0b00000000] = .ok (.nopAbsx 0x1C 0x00FF, []) ∧
  decode [0b10010011, 0b01000100] = .ok (.ahx 0x93, [0x44])

/-! ## Addressing -/

/-- Effective addresses and page crossings, in natural numbers (30 R133–R141). -/
def Obligations.EffectiveAddresses : Prop :=
  ∀ s : State,
    (∀ b : Byte, (s.locate (.zp b)).ea.toNat = b.toNat ∧ (s.locate (.zp b)).cross = false ∧
      (s.locate (.zp b)).state = s) ∧
    (∀ b : Byte, (s.locate (.zpx b)).ea.toNat = (b.toNat + s.x.toNat) % 256 ∧
      (s.locate (.zpx b)).cross = false ∧ (s.locate (.zpx b)).state = s) ∧
    (∀ b : Byte, (s.locate (.zpy b)).ea.toNat = (b.toNat + s.y.toNat) % 256 ∧
      (s.locate (.zpy b)).cross = false ∧ (s.locate (.zpy b)).state = s) ∧
    (∀ a : Addr, (s.locate (.abs a)).ea = a ∧ (s.locate (.abs a)).cross = false ∧
      (s.locate (.abs a)).state = s) ∧
    (∀ a : Addr, let ea := (a.toNat + s.x.toNat) % 65536
      (s.locate (.absx a)).ea.toNat = ea ∧ (s.locate (.absx a)).cross = decide (a.toNat / 256 ≠ ea / 256) ∧
      (s.locate (.absx a)).state = s) ∧
    (∀ a : Addr, let ea := (a.toNat + s.y.toNat) % 65536
      (s.locate (.absy a)).ea.toNat = ea ∧ (s.locate (.absy a)).cross = decide (a.toNat / 256 ≠ ea / 256) ∧
      (s.locate (.absy a)).state = s) ∧
    (∀ p : Addr,
      let lo := s.memRead p
      let hi := lo.2.memRead (BitVec.ofNat 16 (p.toNat / 256 * 256 + (p.toNat + 1) % 256))
      (s.locate (.ind p)).ea.toNat = 256 * hi.1.toNat + lo.1.toNat ∧ (s.locate (.ind p)).cross = false ∧
      (s.locate (.ind p)).state = hi.2) ∧
    (∀ b : Byte, let p := (b.toNat + s.x.toNat) % 256
      (s.locate (.izx b)).ea.toNat =
        256 * (s.memRead (BitVec.ofNat 16 ((p + 1) % 256))).1.toNat + (s.memRead (BitVec.ofNat 16 p)).1.toNat ∧
      (s.locate (.izx b)).cross = false ∧ (s.locate (.izx b)).state = s) ∧
    (∀ b : Byte,
      let base := 256 * (s.memRead (BitVec.ofNat 16 ((b.toNat + 1) % 256))).1.toNat
        + (s.memRead (BitVec.ofNat 16 b.toNat)).1.toNat
      let ea := (base + s.y.toNat) % 65536
      (s.locate (.izy b)).ea.toNat = ea ∧ (s.locate (.izy b)).cross = decide (base / 256 ≠ ea / 256) ∧
      (s.locate (.izy b)).state = s)

/-! ## Interrupts -/

/-- The interrupt entry (60 R403): three bytes on the stack, the status with B = `b` and U = 1, I set, PC
from the vector; nothing else but the device effects of the two vector reads. -/
def Obligations.InterruptEntry : Prop :=
  ∀ (s : State) (ret vector : Addr) (b : Bool),
    let t := { s with
      ram := ((s.ram.write (256 + s.sp.toNat) (BitVec.ofNat 8 (ret.toNat / 256))).write
        (256 + (s.sp - 1).toNat) (BitVec.ofNat 8 ret.toNat)).write
        (256 + (s.sp - 2).toNat) ((s.p.toByte &&& 0xEF) ||| (if b then 0x30 else 0x20))
      sp := s.sp - 3
      p := { s.p with i := true } }
    let lo := t.memRead vector
    let hi := lo.2.memRead (vector + 1)
    s.interrupt ret vector b = { hi.2 with pc := BitVec.ofNat 16 (256 * hi.1.toNat + lo.1.toNat) }

/-- The poll (60 R401, R402, R405, R407): a pending NMI first, whatever I is; then the IRQ line if I is
clear; otherwise the fetched instruction. A service costs 7 cycles. -/
def Obligations.PollOrder : Prop :=
  ∀ s : State,
    (s.nmiPending = true → s.cpuStep =
      .next { ({ s with nmiPending := false }).interrupt s.pc 0xFFFA false with cycles := s.cycles + 7 }) ∧
    (s.nmiPending = false → s.irqLine = true → s.p.i = false → s.cpuStep =
      .next { s.interrupt s.pc 0xFFFE false with cycles := s.cycles + 7 }) ∧
    (s.nmiPending = false → (s.irqLine = false ∨ s.p.i = true) → s.cpuStep = exec s.fetch.1 s.fetch.2)

/-- RTI undoes an interrupt entry: PC, P, SP, A, X, Y as at the entry, the latched requests not touched; and
RTS after JSR continues behind the JSR with the stack pointer as it was (60 R413, 44 R311–R313). -/
def Obligations.ReturnsUndoCalls : Prop :=
  (∀ (s : State) (ret vector : Addr) (b : Bool), s.ram.wf 2048 = true →
    let r := (s.interrupt ret vector b).returnFromInterrupt
    r.pc = ret ∧ r.p = s.p ∧ r.sp = s.sp ∧ r.a = s.a ∧ r.x = s.x ∧ r.y = s.y ∧
    r.nmiPending = s.nmiPending ∧ r.irqLine = s.irqLine) ∧
  (∀ (s t u : State) (a : Addr), s.ram.wf 2048 = true → exec (.jsr a) s = .next t → exec .rts t = .next u →
    u = { s with ram := t.ram, pc := s.pc + 3, cycles := s.cycles + 12 })

/-! ## Frames over all instructions -/

namespace Sys2Proof.Ref

/-- Instructions that write A (10 R31). -/
def writesA : Instr → Bool
  | .lda _ | .pla | .txa | .tya | .adc _ | .sbc _ | .sbcEB _ | .and _ | .ora _ | .eor _ | .lax _ | .slo _
  | .rla _ | .sre _ | .rra _ | .isb _ => true
  | .asl m | .lsr m | .rol m | .ror m => m == .acc
  | _ => false

/-- Instructions that write X (10 R31). -/
def writesX : Instr → Bool
  | .ldx _ | .tax | .tsx | .inx | .dex | .lax _ => true
  | _ => false

/-- Instructions that write Y (10 R31). -/
def writesY : Instr → Bool
  | .ldy _ | .tay | .iny | .dey => true
  | _ => false

/-- Instructions that write SP (10 R32). -/
def writesSP : Instr → Bool
  | .txs | .pha | .php | .pla | .plp | .jsr _ | .rts | .rti | .brk => true
  | _ => false

/-- Instructions that set C from their operation (10 R35). -/
def writesC : Instr → Bool
  | .adc _ | .sbc _ | .sbcEB _ | .cmp _ | .cpx _ | .cpy _ | .asl _ | .lsr _ | .rol _ | .ror _ | .clc | .sec
  | .plp | .rti | .slo _ | .rla _ | .sre _ | .rra _ | .dcp _ | .isb _ => true
  | _ => false

/-- Instructions that write N and Z (10 R36, R42). -/
def writesNZ : Instr → Bool
  | .lda _ | .ldx _ | .ldy _ | .lax _ | .tax | .tay | .txa | .tya | .tsx | .pla | .plp | .rti
  | .adc _ | .sbc _ | .sbcEB _ | .and _ | .ora _ | .eor _ | .bit _ | .cmp _ | .cpx _ | .cpy _
  | .inc _ | .dec _ | .inx | .iny | .dex | .dey | .asl _ | .lsr _ | .rol _ | .ror _
  | .slo _ | .rla _ | .sre _ | .rra _ | .dcp _ | .isb _ => true
  | _ => false

/-- Instructions that write V (10 R41). -/
def writesV : Instr → Bool
  | .adc _ | .sbc _ | .sbcEB _ | .bit _ | .clv | .plp | .rti | .rra _ | .isb _ => true
  | _ => false

/-- Instructions that write I (10 R37). -/
def writesI : Instr → Bool
  | .sei | .cli | .plp | .rti | .brk => true
  | _ => false

/-- Instructions that write D (10 R38). -/
def writesD : Instr → Bool
  | .sed | .cld | .plp | .rti => true
  | _ => false

/-- The addresses an instruction stores to, by the functions its meaning uses. -/
def storedTo (i : Instr) (s : State) : List Addr :=
  match i with
  | .sta m | .stx m | .sty m | .sax m => [(s.locate m).ea]
  | .inc m | .dec m | .slo m | .rla m | .sre m | .rra m | .dcp m | .isb m => [(s.locate m).ea]
  | .asl m | .lsr m | .rol m | .ror m => if m = .acc then [] else [(s.locate m).ea]
  | .pha | .php => [s.stackAddr]
  | .jsr _ => [s.stackAddr, { s with sp := s.sp - 1 }.stackAddr]
  | .brk => [s.stackAddr, { s with sp := s.sp - 1 }.stackAddr, { s with sp := s.sp - 2 }.stackAddr]
  | _ => []

end Sys2Proof.Ref

/-- A well-formed instruction that is not among the writers of a register leaves it; no instruction touches
the latched NMI or the IRQ line; the cost is 2 to 8 cycles, or up to 522 with OAM DMA (10 R31, R32, R45,
R46; 60 R423). That a $2000 store latches no NMI rests on `NmiOnLateEnable = false`, and that the unimplemented
opcodes complete on `UnimplPolicy = nop2`: both are the model's choice of the spec's default (log 5). -/
def Obligations.RegisterFrame : Prop :=
  ∀ (i : Instr) (s : State), i.WellFormed → ∃ t, exec i s = .next t ∧
    (writesA i = false → t.a = s.a) ∧ (writesX i = false → t.x = s.x) ∧
    (writesY i = false → t.y = s.y) ∧ (writesSP i = false → t.sp = s.sp) ∧
    t.nmiPending = s.nmiPending ∧ t.irqLine = s.irqLine ∧
    s.cycles + 2 ≤ t.cycles ∧
    (0x4014#16 ∉ storedTo i s → t.cycles ≤ s.cycles + 8) ∧ t.cycles ≤ s.cycles + 522

/-- A well-formed instruction that is not among the writers of a flag leaves it (10 R35–R38, R41, R42). -/
def Obligations.FlagFrame : Prop :=
  ∀ (i : Instr) (s t : State), i.WellFormed → exec i s = .next t →
    (writesC i = false → t.p.c = s.p.c) ∧ (writesNZ i = false → t.p.z = s.p.z ∧ t.p.n = s.p.n) ∧
    (writesV i = false → t.p.v = s.p.v) ∧ (writesI i = false → t.p.i = s.p.i) ∧
    (writesD i = false → t.p.d = s.p.d)

/-- Memory outside the bytes an instruction stores to is as it was: work RAM, PRG-RAM, OAM, palette RAM,
CIRAM and CHR memory; PRG-ROM always is (20 R76, R80, R81, R89). -/
def Obligations.MemoryFrame : Prop :=
  ∀ (i : Instr) (s t : State), i.WellFormed → exec i s = .next t →
    (∀ a : Addr, a < 0x2000#16 →
      (∀ b ∈ storedTo i s, b < 0x2000#16 → b.toNat % 2048 ≠ a.toNat % 2048) →
      (t.memRead a).1 = (s.memRead a).1) ∧
    (∀ k, k < 8192 → (∀ b ∈ storedTo i s, b.toNat ≠ 0x6000 + k) → t.prgRam.read k = s.prgRam.read k) ∧
    ((∀ b ∈ storedTo i s, ¬ (0x2000#16 ≤ b ∧ b < 0x4000#16 ∧ b.toNat % 8 = 4) ∧ b ≠ 0x4014#16) →
      t.ppu.oam = s.ppu.oam) ∧
    ((∀ b ∈ storedTo i s, ¬ (0x2000#16 ≤ b ∧ b < 0x4000#16 ∧ b.toNat % 8 = 7)) →
      t.ppu.palette = s.ppu.palette ∧ t.ppu.ciram = s.ppu.ciram ∧
      t.cart.map (·.chr) = s.cart.map (·.chr)) ∧
    t.cart.map (·.prgRom) = s.cart.map (·.prgRom)

/-! ## The step -/

namespace Sys2Proof.Ref

/-- `n` consecutive bytes from an address on, each by a bus read, and the machine after the reads. -/
def readBytes : (n : Nat) → Addr → State → List Byte × State
  | 0, _, s => ([], s)
  | n + 1, a, s =>
    let r := s.memRead a
    let rest := readBytes n (a + 1) r.2
    (r.1 :: rest.1, rest.2)

/-- The dot index of a machine within the frame (70 R841). -/
def dotIndex (p : Ppu) : Nat := 341 * p.scanline + p.dot

end Sys2Proof.Ref

/-- When no interrupt is served and the bytes at PC decode to exactly an instruction, a step is that
instruction's `exec` at the machine after those fetches, then the device ticks for the cycles since the
start of the step, then the clearing of the pulses (60 R401, R417; 30 R154; the clearing is log 10). -/
def Obligations.StepRunsDecoded : Prop :=
  ∀ (s f t : State) (n : Nat) (bytes : List Byte) (i : Instr), s.cart.isSome = true →
    s.nmiPending = false → (s.irqLine = false ∨ s.p.i = true) →
    readBytes n s.pc s = (bytes, f) → decode bytes = .ok (i, []) → exec i f = .next t →
    step s = .next (t.tickDevices (t.cycles - s.cycles)).clearPulses

/-- With a cartridge every step goes on and takes 2 to 522 cycles; without one it is refused (63 R700,
60 R409, R423; log 3). That the unimplemented opcodes go on rests on `UnimplPolicy = nop2` (log 5). -/
def Obligations.StepCompletes : Prop :=
  (∀ s : State, s.cart.isSome = true → ∃ t, step s = .next t ∧ t.cart.isSome = true ∧
    s.cycles + 2 ≤ t.cycles ∧ t.cycles ≤ s.cycles + 522) ∧
  (∀ s : State, s.cart = none → step s = .refused .noCartridge)

/-- Every step keeps the invariant of Safety.lean. -/
def Obligations.StepKeepsInv : Prop := ∀ s t : State, s.Inv → step s = .next t → t.Inv

/-- The machine after reset meets the invariant, and its registers hold the spec's reset values (70 R801,
R803). -/
def Obligations.ResetInv : Prop :=
  State.reset.Inv ∧ State.reset.a = 0 ∧ State.reset.x = 0 ∧ State.reset.y = 0 ∧ State.reset.sp = 0xFD ∧
  State.reset.p.toByte = 0x24 ∧ State.reset.cycles = 7 ∧ State.reset.nmiPending = false ∧
  State.reset.irqLine = false

/-- A step moves the video chip by exactly three dots and the audio chip by one cycle for each processor
cycle, in frames of 89 342 dots (60 R417, 61 R530, 62 R630). -/
def Obligations.StepAdvancesDevices : Prop :=
  ∀ s t : State, s.ppu.scanline < 262 → s.ppu.dot < 341 → step s = .next t →
    dotIndex t.ppu = (dotIndex s.ppu + 3 * (t.cycles - s.cycles)) % 89342 ∧ t.ppu.dot < 341 ∧
    t.apu.apuCycles = s.apu.apuCycles + (t.cycles - s.cycles)

/-- After every step the IRQ line is the OR of the three sources (60 R406), and the one-shot pulses are
clear (log 10). -/
def Obligations.IrqLineFollowsSources : Prop :=
  ∀ s t : State, step s = .next t →
    t.irqLine = (t.apu.frameIrq || t.apu.dmcIrq || t.cart.any (·.irq)) ∧
    t.ppu.pulseVblankStart = false ∧ t.ppu.pulseFrameStart = false

/-- Over any number of dots an NMI is requested exactly when PPUCTRL bit 7 is set and dot index 82 182,
(241, 1), is among them; no dot cancels a request (60 R404, 61 R531, 70 R841). -/
def Obligations.NmiRequest : Prop :=
  ∀ (n : Nat) (s : State), s.ppu.scanline < 262 → s.ppu.dot < 341 →
    ((State.ppuDots n s).nmiPending = true ↔
      s.nmiPending = true ∨
        (s.ppu.ctrl.getLsbD 7 = true ∧ ∃ k < n, (dotIndex s.ppu + k) % 89342 = 82182))

/-- No step changes PRG-ROM, CHR-ROM or what the header gave (63 R700, 20 R81). -/
def Obligations.StepKeepsCartridge : Prop :=
  ∀ (s t : State) (c : Cartridge), step s = .next t → s.cart = some c → ∃ d, t.cart = some d ∧
    d.prgSize = c.prgSize ∧ d.prgRom = c.prgRom ∧ d.chrSize = c.chrSize ∧ d.chrIsRam = c.chrIsRam ∧
    (c.chrIsRam = false → d.chr = c.chr) ∧ d.mirroring = c.mirroring ∧ d.battery = c.battery ∧
    d.headerVariant = c.headerVariant ∧ d.mapperId = c.mapperId

/-! ## The bus -/

/-- Work RAM (20 R76): four mirrors of 2048 bytes, no side effect, zero at reset. -/
def Obligations.WorkRam : Prop :=
  (∀ (s : State) (a : Addr), a < 0x2000#16 →
    s.memRead a = (s.ram.read (a.toNat % 2048), s) ∧
    ∀ v : Byte, s.memWrite a v = { s with ram := s.ram.write (a.toNat % 2048) v }) ∧
  (∀ (s : State) (a b : Addr) (v : Byte), s.ram.wf 2048 = true → a < 0x2000#16 → b < 0x2000#16 →
    ((s.memWrite a v).memRead b).1 = if a.toNat % 2048 = b.toNat % 2048 then v else (s.memRead b).1) ∧
  ∀ k, k < 2048 → State.reset.ram.read k = 0

/-- Addresses no device drives, the expansion window and PRG-RAM (20 R78–R80, R82, R83): a read that nothing
drives is a draw and a write there does nothing; the mapper's hook is offered the two cartridge windows first;
unclaimed, PRG-RAM is plain bytes, zero at reset. That a draw is `Config.freeByte` at the counter `draws`, which
advances by one, is the model's choice (log 1). -/
def Obligations.UndrivenAndPrgRam : Prop :=
  (∀ (s : State) (a : Addr), (0x4000#16 ≤ a ∧ a < 0x4015#16) ∨ (0x4018#16 ≤ a ∧ a < 0x4020#16) →
    s.memRead a = (Config.freeByte s.draws, { s with draws := s.draws + 1 })) ∧
  (∀ (s : State) (a : Addr) (v : Byte), 0x4018#16 ≤ a → a < 0x4020#16 → s.memWrite a v = s) ∧
  (∀ (s : State) (a : Addr), 0x4020#16 ≤ a → a < 0x6000#16 →
    (s.memRead a = match s.cart.bind (·.readRegister a) with
      | some r => (r.1, { s with cart := some r.2 })
      | none => (Config.freeByte s.draws, { s with draws := s.draws + 1 })) ∧
    ∀ v : Byte, s.memWrite a v = match s.cart.bind (·.writeRegister a v) with
      | some d => { s with cart := some d }
      | none => s) ∧
  (∀ (s : State) (a : Addr), 0x6000#16 ≤ a → a < 0x8000#16 →
    (s.memRead a = match s.cart.bind (·.readRegister a) with
      | some r => (r.1, { s with cart := some r.2 })
      | none => (s.prgRam.read (a.toNat - 0x6000), s)) ∧
    ∀ v : Byte, s.memWrite a v = match s.cart.bind (·.writeRegister a v) with
      | some d => { s with cart := some d }
      | none => { s with prgRam := s.prgRam.write (a.toNat - 0x6000) v }) ∧
  (∀ (s : State) (a b : Addr) (v : Byte), s.prgRam.wf 8192 = true → 0x6000#16 ≤ a → a < 0x8000#16 →
    0x6000#16 ≤ b → b < 0x8000#16 → s.cart.bind (·.writeRegister a v) = none →
    s.cart.bind (·.readRegister b) = none →
    ((s.memWrite a v).memRead b).1 = if a = b then v else (s.memRead b).1) ∧
  ∀ k, k < 8192 → State.reset.prgRam.read k = 0

/-- The cartridge windows: mapper 0's functions (63 R720), PRG-ROM reads through them with no side effect
and writes without effect; and for any mapper every index is inside its memory (63 R718, by log 6). -/
def Obligations.CartridgeWindows : Prop :=
  (∀ c : Cartridge, c.mapperId = 0 →
    (∀ a : Addr, 0x8000#16 ≤ a → c.mapCpuRead a = some ((a.toNat - 0x8000) % c.prgSize)) ∧
    (∀ (a : Addr) (v : Byte), c.mapCpuWrite a v = c) ∧
    (∀ a : BitVec 14, c.mapPpuRead a = some (a.toNat % c.chrSize) ∧
      c.mapPpuWrite a = some (a.toNat % c.chrSize)) ∧
    (∀ (a : Addr) (v : Byte), c.readRegister a = none ∧ c.writeRegister a v = none) ∧
    c.irq = false ∧ c.effectiveMirroring = c.mirroring ∧ (∀ a, c.mapPpuNametable a = none)) ∧
  (∀ (s : State) (c : Cartridge) (a : Addr), s.cart = some c → c.mapperId = 0 → 0x8000#16 ≤ a →
    s.memRead a = (c.prgRom.read ((a.toNat - 0x8000) % c.prgSize), s) ∧ ∀ v, s.memWrite a v = s) ∧
  (∀ (c : Cartridge) (k : Nat), c.Inv →
    (∀ a, c.mapCpuRead a = some k → k < c.prgSize) ∧
    (∀ a, c.mapPpuRead a = some k → k < c.chrSize) ∧ (∀ a, c.mapPpuWrite a = some k → k < c.chrSize))

/-- OAM DMA (20 R87): each of the 256 bytes is the `Peek` of the page's byte at its turn, stored from
`oam_addr` on; 513 cycles, one more if the counter was odd; only OAM and the model's draw counter change
besides. -/
def Obligations.OamDma : Prop :=
  ∀ (s : State) (page : Byte), s.ppu.oam.wf 256 = true →
    let t := s.memWrite 0x4014 page
    t.cycles = s.cycles + 513 + s.cycles % 2 ∧
    (∀ k, k < 256 → t.ppu.oam.read ((s.ppu.oamAddr.toNat + k) % 256) =
      ((s.dmaCopy page k 0).peek (BitVec.ofNat 16 (256 * page.toNat + k))).1) ∧
    (page.toNat < 0x20 → ∀ k, k < 256 → t.ppu.oam.read ((s.ppu.oamAddr.toNat + k) % 256) =
      s.ram.read ((256 * page.toNat + k) % 2048)) ∧
    t = { s with cycles := t.cycles, draws := t.draws, ppu := { s.ppu with oam := t.ppu.oam } }

/-! ## The video chip -/

namespace Sys2Proof.Ref

/-- The `width` bits of `t` from bit `lo` on replaced by the low bits of `v`, in natural numbers. -/
def withField (t : BitVec 15) (lo width v : Nat) : BitVec 15 :=
  BitVec.ofNat 15 (t.toNat - t.toNat / 2 ^ lo % 2 ^ width * 2 ^ lo + v % 2 ^ width * 2 ^ lo)

/-- All three open-bus groups refreshed with a byte (61 R511). -/
def refreshed (p : Ppu) (v : Byte) : Ppu := { p with ob := v, ageLo := 0, ageB5 := 0, ageHi := 0 }

/-- The address is one of the mirrors of video register `r` (20 R77). -/
def IsVideoRegister (a : Addr) (r : Nat) : Prop := 0x2000 ≤ a.toNat ∧ a.toNat < 0x4000 ∧ a.toNat % 8 = r

/-- The palette entry of an address from $3F00 on: entries $10, $14, $18 and $1C are $00, $04, $08 and $0C
(61 R543). -/
def paletteSlot (a : Nat) : Nat := if a % 32 / 16 = 1 ∧ a % 4 = 0 then a % 16 else a % 32

/-- The table of 61 R542: the CIRAM page of nametable 0, 1, 2 and 3. -/
def nametablePages : Mirroring → List Nat
  | .horizontal => [0, 0, 1, 1]
  | .vertical => [0, 1, 0, 1]
  | .fourScreen => [0, 1, 2, 3]
  | .singleLower => [0, 0, 0, 0]
  | .singleUpper => [1, 1, 1, 1]

/-- `v` after a $2007 access (61 R518). -/
def nextAddr (p : Ppu) : BitVec 15 := BitVec.ofNat 15 (p.v.toNat + if p.ctrl.getLsbD 2 then 32 else 1)

/-- Sprite `i` is on the scanline after `line`: `0 <= line - Y < h` (61 R533). -/
def spriteRows (p : Ppu) (i line : Nat) : Bool :=
  decide ((p.oam.read (4 * i)).toNat ≤ line
    ∧ line - (p.oam.read (4 * i)).toNat < if p.ctrl.getLsbD 5 then 16 else 8)

/-- The sprite-0 condition of 61 R534 at pixel `px` of the current scanline, but for the flag itself. -/
def spriteZeroMeets (s : State) (px : Nat) : Bool :=
  let y := (s.ppu.oam.read 0).toNat
  let x := (s.ppu.oam.read 3).toNat
  s.ppu.mask.getLsbD 3 && s.ppu.mask.getLsbD 4 && decide (px ≠ 255)
    && decide (8 ≤ px ∨ (s.ppu.mask.getLsbD 1 = true ∧ s.ppu.mask.getLsbD 2 = true))
    && decide (x ≤ px ∧ px < x + 8)
    && decide (y + 1 ≤ s.ppu.scanline ∧ s.ppu.scanline < y + 1 + if s.ppu.ctrl.getLsbD 5 then 16 else 8)
    && s.bgOpaque px s.ppu.scanline

end Sys2Proof.Ref

/-- Reads of $2002, $2004 and the write-only registers, at every mirror (61 R512, R517, R523). The byte left
in `ob` by a $2002 read is the byte returned. -/
def Obligations.StatusReads : Prop :=
  ∀ (s : State) (a : Addr),
    (IsVideoRegister a 2 →
      let result : Byte := BitVec.ofNat 8 (128 * s.ppu.vblank.toNat + 64 * s.ppu.spriteZeroHit.toNat
        + 32 * s.ppu.spriteOverflow.toNat + s.ppu.ob.toNat % 32)
      s.memRead a = (result, { s with
        ppu := { s.ppu with vblank := false, w := false, ob := result, ageB5 := 0, ageHi := 0 } })) ∧
    (IsVideoRegister a 4 →
      let result := s.ppu.oam.read s.ppu.oamAddr.toNat
      s.memRead a = (result, { s with ppu := refreshed s.ppu result })) ∧
    (∀ r ∈ [0, 1, 3, 5, 6], IsVideoRegister a r → s.memRead a = (s.ppu.ob, s))

/-- Writes of the registers $2000 to $2006, at every mirror (61 R511, R514–R516, R520, R522). That a $2000
write requests no NMI rests on `NmiOnLateEnable = false`, the model's choice of the spec's default (log 5).
The fields of `t` are 4–0 coarse X, 9–5 coarse Y, 11–10 nametable and 14–12 fine Y. -/
def Obligations.VideoRegisterWrites : Prop :=
  ∀ (s : State) (a : Addr) (v : Byte), let p := refreshed s.ppu v
    (IsVideoRegister a 0 → s.memWrite a v = { s with
      ppu := { p with ctrl := v, t := withField p.t 10 2 v.toNat } }) ∧
    (IsVideoRegister a 1 → s.memWrite a v = { s with ppu := { p with mask := v } }) ∧
    (IsVideoRegister a 2 → s.memWrite a v = { s with ppu := p }) ∧
    (IsVideoRegister a 3 → s.memWrite a v = { s with ppu := { p with oamAddr := v } }) ∧
    (IsVideoRegister a 4 → s.memWrite a v = { s with
      ppu := { p with oam := p.oam.write p.oamAddr.toNat v, oamAddr := p.oamAddr + 1 } }) ∧
    (IsVideoRegister a 5 → s.ppu.w = false → s.memWrite a v = { s with
      ppu := { p with t := withField p.t 0 5 (v.toNat / 8), x := BitVec.ofNat 3 v.toNat, w := true } }) ∧
    (IsVideoRegister a 5 → s.ppu.w = true → s.memWrite a v = { s with
      ppu := { p with t := withField (withField p.t 5 5 (v.toNat / 8)) 12 3 v.toNat, w := false } }) ∧
    (IsVideoRegister a 6 → s.ppu.w = false → s.memWrite a v = { s with
      ppu := { p with t := withField p.t 8 7 (v.toNat % 64), w := true } }) ∧
    (IsVideoRegister a 6 → s.ppu.w = true → s.memWrite a v = { s with
      ppu := { p with t := withField p.t 0 8 v.toNat, v := withField p.t 0 8 v.toNat, w := false } })

/-- $2007 (61 R518, R519): the buffered read below $3F00, the direct read of the palette with the buffer
loaded from the nametable under it, the write, and the increment by 1 or 32 modulo $8000. -/
def Obligations.DataPort : Prop :=
  ∀ (s : State) (a : Addr), IsVideoRegister a 7 →
    let d : BitVec 14 := BitVec.ofNat 14 s.ppu.v.toNat
    (d.toNat < 0x3F00 → ∃ draws, s.memRead a = (s.ppu.readBuffer, { s with
      draws := draws
      ppu := { refreshed s.ppu s.ppu.readBuffer with
        readBuffer := s.ppuRead 0 d, v := nextAddr s.ppu } })) ∧
    (0x3F00 ≤ d.toNat →
      let result := (s.ppuRead 0 d &&& 0x3F) ||| (s.ppu.ob &&& 0xC0)
      s.memRead a = (result, { s with
        ppu := { s.ppu with
          readBuffer := s.ppuRead 0 (BitVec.ofNat 14 (d.toNat - 0x1000))
          ob := result, ageLo := 0, ageB5 := 0, v := nextAddr s.ppu } })) ∧
    (∀ v : Byte, let t := ({ s with ppu := refreshed s.ppu v }).ppuWrite d v
      s.memWrite a v = { t with ppu := { t.ppu with v := nextAddr s.ppu } }) ∧
    (∀ (v : Byte) (c : Cartridge), s.cart = some c → c.chrIsRam = false → d.toNat < 0x2000 →
      s.memWrite a v = { s with ppu := { refreshed s.ppu v with v := nextAddr s.ppu } })

/-- The video chip's address space (61 R541–R543): CHR through the mapper and ROM left alone, nametables by
the mapper's index or the mirroring table, palette entries of six bits. -/
def Obligations.VideoSpace : Prop :=
  ∀ (s : State) (c : Cartridge) (a : BitVec 14) (site : Nat) (v : Byte), s.cart = some c →
    (a.toNat < 0x2000 →
      (∀ i, c.mapPpuRead a = some i → s.ppuRead site a = c.chr.read i) ∧
      (∀ i, c.mapPpuWrite a = some i → c.chrIsRam = true →
        s.ppuWrite a v = { s with cart := some { c with chr := c.chr.write i v } }) ∧
      (c.mapPpuWrite a = none ∨ c.chrIsRam = false → s.ppuWrite a v = s)) ∧
    (0x2000 ≤ a.toNat → a.toNat < 0x3F00 →
      let i := match c.mapPpuNametable a with
        | some j => j % 4096
        | none => (nametablePages c.effectiveMirroring).getD ((a.toNat - 0x2000) / 1024 % 4) 0 * 1024
            + a.toNat % 1024
      s.ppuRead site a = s.ppu.ciram.read i ∧
      s.ppuWrite a v = { s with ppu := { s.ppu with ciram := s.ppu.ciram.write i v } }) ∧
    (0x3F00 ≤ a.toNat →
      (s.ppuRead site a).toNat = (s.ppu.palette.read (paletteSlot a.toNat)).toNat % 64 ∧
      s.ppuWrite a v = { s with ppu := { s.ppu with
        palette := s.ppu.palette.write (paletteSlot a.toNat) (BitVec.ofNat 8 (v.toNat % 64)) } })

/-- Palette RAM read after write over all mirrors, sprite entries 0 included (61 R543). -/
def Obligations.PaletteMirrors : Prop :=
  ∀ (s : State) (a b : BitVec 14) (site : Nat) (v : Byte), s.ppu.palette.wf 32 = true →
    0x3F00 ≤ a.toNat → 0x3F00 ≤ b.toNat →
    ((s.ppuWrite a v).ppuRead site b).toNat =
      if paletteSlot a.toNat = paletteSlot b.toNat then v.toNat % 64 else (s.ppuRead site b).toNat

/-- One dot: the flags, the NMI request and the pulses change at their coordinates and nowhere else
(61 R531–R536, 60 R404), with `Sprite0NeedsSpritePixel = false`, the model's choice of the spec's
default (log 5). -/
def Obligations.DotFlags : Prop :=
  ∀ s : State, s.ppu.scanline < 262 → s.ppu.dot < 341 →
    let t := s.ppuDot
    let at_ := fun line dot => decide (s.ppu.scanline = line ∧ s.ppu.dot = dot)
    t.ppu.vblank = ((s.ppu.vblank || at_ 241 1) && !at_ 261 1) ∧
    t.ppu.spriteZeroHit = ((s.ppu.spriteZeroHit || (decide (s.ppu.scanline < 240 ∧ 1 ≤ s.ppu.dot
        ∧ s.ppu.dot ≤ 256) && spriteZeroMeets s (s.ppu.dot - 1))) && !at_ 261 1) ∧
    t.ppu.spriteOverflow = ((s.ppu.spriteOverflow || (decide (s.ppu.scanline < 240 ∧ s.ppu.dot = 257)
        && (s.ppu.mask.getLsbD 3 || s.ppu.mask.getLsbD 4)
        && decide (9 ≤ (List.range 64).countP fun i => spriteRows s.ppu i s.ppu.scanline)))
      && !at_ 261 1) ∧
    t.nmiPending = (s.nmiPending || (at_ 241 1 && s.ppu.ctrl.getLsbD 7)) ∧
    t.ppu.pulseVblankStart = (s.ppu.pulseVblankStart || at_ 241 1) ∧
    t.ppu.pulseFrameStart = (s.ppu.pulseFrameStart || at_ 261 340)

/-- One dot: the snapshot at dot 0 of a visible line (61 R555), the mapper's clock at dot 260 (61 R537), the
coordinate (61 R530); everything else but the flags, open bus and the model's draw counter stays. -/
def Obligations.DotEffects : Prop :=
  ∀ s : State, s.ppu.scanline < 262 → s.ppu.dot < 341 →
    let t := s.ppuDot
    dotIndex t.ppu = (dotIndex s.ppu + 1) % 89342 ∧ t.ppu.dot < 341 ∧
    t.ppu.snap = (if s.ppu.scanline < 240 ∧ s.ppu.dot = 0 then
      s.ppu.snap.set s.ppu.scanline
        ⟨s.ppu.ctrl, s.ppu.mask, s.ppu.t, s.ppu.x, s.cart.bind (·.saveRenderState)⟩
      else s.ppu.snap) ∧
    t.cart = (if s.ppu.dot = 260 ∧ (s.ppu.scanline < 240 ∨ s.ppu.scanline = 261)
        ∧ (s.ppu.mask.getLsbD 3 = true ∨ s.ppu.mask.getLsbD 4 = true) then
      s.cart.map (·.onPpuScanline s.ppu.scanline)
      else s.cart) ∧
    t = { s with
      nmiPending := t.nmiPending
      cart := t.cart
      draws := t.draws
      ppu := { s.ppu with
        vblank := t.ppu.vblank
        spriteZeroHit := t.ppu.spriteZeroHit
        spriteOverflow := t.ppu.spriteOverflow
        ob := t.ppu.ob
        ageLo := t.ppu.ageLo
        ageB5 := t.ppu.ageB5
        ageHi := t.ppu.ageHi
        scanline := t.ppu.scanline
        dot := t.ppu.dot
        snap := t.ppu.snap
        pulseVblankStart := t.ppu.pulseVblankStart
        pulseFrameStart := t.ppu.pulseFrameStart } }

/-- Open bus (61 R521, R538) over any number of dots: bits 4–0, bit 5 and bits 7–6 decay each by its own age.
A group's bits become zero when its age reaches `OpenBusDecayDots`, whatever the open parameter is, and are
as they were before that; an age that has reached it has stopped, and its group stays as it is. -/
def Obligations.OpenBusDecay : Prop :=
  ∀ (n : Nat) (s : State),
    let t := (State.ppuDots n s).ppu
    let kept := fun age : Nat => decide (age + n < Config.openBusDecayDots ∨ Config.openBusDecayDots ≤ age)
    let aged := fun age : Nat =>
      if Config.openBusDecayDots ≤ age then age else min (age + n) Config.openBusDecayDots
    (∀ k, k < 5 → t.ob.getLsbD k = (s.ppu.ob.getLsbD k && kept s.ppu.ageLo)) ∧
    t.ob.getLsbD 5 = (s.ppu.ob.getLsbD 5 && kept s.ppu.ageB5) ∧
    (∀ k, 6 ≤ k → t.ob.getLsbD k = (s.ppu.ob.getLsbD k && kept s.ppu.ageHi)) ∧
    t.ageLo = aged s.ppu.ageLo ∧ t.ageB5 = aged s.ppu.ageB5 ∧ t.ageHi = aged s.ppu.ageHi

/-- A rendered frame (61 R550, R556–R558): 240 rows of 256 opaque pixels, all of the colour of palette entry
0 where every snapshot has rendering off; nothing but the frame (and the draw counter of log 1) changes. -/
def Obligations.FrameOutput : Prop :=
  ∀ s : State, s.ppu.snap.length = 240 →
    let t := s.renderFrame
    t = { s with draws := t.draws, ppu := { s.ppu with frame := t.ppu.frame } } ∧
    ∃ rows, t.ppu.frame = .drawn rows ∧ rows.length = 240 ∧
      (∀ row ∈ rows, row.length = 256 ∧ ∀ q ∈ row, q.a = 255) ∧
      ((∀ snap ∈ s.ppu.snap, snap.mask.getLsbD 3 = false ∧ snap.mask.getLsbD 4 = false) →
        ∀ row ∈ rows, ∀ q ∈ row,
          (q.r, q.g, q.b) = Config.paletteRGB (BitVec.ofNat 6 (s.ppu.palette.read 0).toNat))

/-! ## The audio chip -/

namespace Sys2Proof.Ref

/-- `LengthTable` (62 R631). -/
def lengths : List Nat :=
  [10, 254, 20, 2, 40, 4, 80, 6, 160, 8, 60, 10, 14, 12, 26, 14]
  ++ [12, 16, 24, 18, 48, 20, 96, 22, 192, 24, 72, 26, 16, 28, 32, 30]

/-- A length counter after a length-load write: loaded only while the channel is enabled. -/
def loadedLength (enabled : Bool) (length v : Byte) : Byte :=
  if enabled then BitVec.ofNat 8 (lengths.getD (v.toNat / 8) 0) else length

/-- A period after a write of its low 8 bits, and of its high 3 bits. -/
def lowWritten (period : BitVec 11) (v : Byte) : BitVec 11 :=
  BitVec.ofNat 11 (period.toNat / 256 * 256 + v.toNat)
def highWritten (period : BitVec 11) (v : Byte) : BitVec 11 :=
  BitVec.ofNat 11 (v.toNat % 8 * 256 + period.toNat % 256)

/-- A pulse channel after a write of its register 0, 1, 2 or 3 (62 R614–R617). -/
def pulseWritten (p : Pulse) (r : Nat) (v : Byte) : Pulse :=
  match r with
  | 0 => { p with
      duty := BitVec.ofNat 2 (v.toNat / 64), halt := v.getLsbD 5, constVol := v.getLsbD 4
      vol := BitVec.ofNat 4 v.toNat }
  | 1 => { p with
      swEnabled := v.getLsbD 7, swPeriod := BitVec.ofNat 3 (v.toNat / 16), swNegate := v.getLsbD 3
      swShift := BitVec.ofNat 3 v.toNat, swReload := true }
  | 2 => { p with period := lowWritten p.period v }
  | _ => { p with
      period := highWritten p.period v, length := loadedLength p.enabled p.length v
      env := { p.env with start := true }, dutyPos := 0 }

/-- The audio chip after a write of the register at $4000 + `r`, `r` up to $13 (62 R610, R614–R628); $4009
and $400D have none. -/
def channelWritten (u : Apu) (r : Nat) (v : Byte) : Apu :=
  if r < 4 then { u with pulse1 := pulseWritten u.pulse1 r v }
  else if r < 8 then { u with pulse2 := pulseWritten u.pulse2 (r - 4) v }
  else match r with
  | 0x8 => { u with tri := { u.tri with control := v.getLsbD 7, linReloadVal := BitVec.ofNat 7 v.toNat } }
  | 0xA => { u with tri := { u.tri with period := lowWritten u.tri.period v } }
  | 0xB => { u with tri := { u.tri with
      period := highWritten u.tri.period v, length := loadedLength u.tri.enabled u.tri.length v
      linReload := true } }
  | 0xC => { u with noise := { u.noise with
      halt := v.getLsbD 5, constVol := v.getLsbD 4, vol := BitVec.ofNat 4 v.toNat } }
  | 0xE => { u with noise := { u.noise with mode := v.getLsbD 7, periodIdx := BitVec.ofNat 4 v.toNat } }
  | 0xF => { u with noise := { u.noise with
      length := loadedLength u.noise.enabled u.noise.length v, env := { u.noise.env with start := true } } }
  | 0x10 => { u with
      dmc := { u.dmc with
        irqEnable := v.getLsbD 7, loop := v.getLsbD 6, rateIdx := BitVec.ofNat 4 v.toNat }
      dmcIrq := if v.getLsbD 7 then u.dmcIrq else false }
  | 0x11 => { u with dmc := { u.dmc with level := BitVec.ofNat 7 v.toNat } }
  | 0x12 => { u with dmc := { u.dmc with addrReg := v } }
  | 0x13 => { u with dmc := { u.dmc with lenReg := v } }
  | _ => u

end Sys2Proof.Ref

/-- $4015 read and written, $4017 written, and the channel registers $4000 to $4013 written (62 R610–R628).
That bit 5 of the read is `Config.freeByte` at the counter `draws`, which advances by one, is the model's
choice (log 1); that a disabled channel drops the length load alone of a length-load write, not the rest of
it, is the model's reading of 62 R617, R620 and R623 (log 15). -/
def Obligations.AudioControl : Prop :=
  (∀ s : State, let u := s.apu
    let r := s.memRead 0x4015
    r.2 = { s with draws := s.draws + 1, apu := { u with frameIrq := false } } ∧
    r.1.getLsbD 0 = decide (0 < u.pulse1.length.toNat) ∧ r.1.getLsbD 1 = decide (0 < u.pulse2.length.toNat) ∧
    r.1.getLsbD 2 = decide (0 < u.tri.length.toNat) ∧ r.1.getLsbD 3 = decide (0 < u.noise.length.toNat) ∧
    r.1.getLsbD 4 = decide (0 < u.dmc.remaining.toNat) ∧
    r.1.getLsbD 5 = (Config.freeByte s.draws).getLsbD 5 ∧
    r.1.getLsbD 6 = u.frameIrq ∧ r.1.getLsbD 7 = u.dmcIrq) ∧
  (∀ (s : State) (v : Byte), let u := s.apu
    s.memWrite 0x4015 v = { s with apu := { u with
      pulse1 := { u.pulse1 with
        enabled := v.getLsbD 0, length := if v.getLsbD 0 then u.pulse1.length else 0 }
      pulse2 := { u.pulse2 with
        enabled := v.getLsbD 1, length := if v.getLsbD 1 then u.pulse2.length else 0 }
      tri := { u.tri with enabled := v.getLsbD 2, length := if v.getLsbD 2 then u.tri.length else 0 }
      noise := { u.noise with
        enabled := v.getLsbD 3, length := if v.getLsbD 3 then u.noise.length else 0 }
      dmc := if v.getLsbD 4 = false then { u.dmc with remaining := 0 }
        else if u.dmc.remaining = 0 then { u.dmc with
          curAddr := BitVec.ofNat 16 (0xC000 + u.dmc.addrReg.toNat * 64)
          remaining := BitVec.ofNat 12 (u.dmc.lenReg.toNat * 16 + 1) }
        else u.dmc
      dmcIrq := false } }) ∧
  (∀ (s : State) (v : Byte),
    let u := { s.apu with
      fs := ⟨v.getLsbD 7, v.getLsbD 6, 0⟩
      frameIrq := if v.getLsbD 6 then false else s.apu.frameIrq }
    s.memWrite 0x4017 v = { s with apu := if v.getLsbD 7 then u.quarterFrame.halfFrame else u }) ∧
  (∀ (s : State) (r : Nat) (v : Byte), r < 0x14 →
    s.memWrite (BitVec.ofNat 16 (0x4000 + r)) v = { s with apu := channelWritten s.apu r v })

/-- The frame interrupt flag over any number of audio cycles (62 R640): set exactly when the count of the
4-step sequence passes 29829, period 29830, unless inhibited; never by the 5-step sequence; never cleared. -/
def Obligations.FrameIrqTiming : Prop :=
  ∀ (n : Nat) (s : State), (s.apu.fs.mode = false → s.apu.fs.counter < 29830) →
    ((State.apuTicks n s).apu.frameIrq = true ↔
      s.apu.frameIrq = true ∨
        (s.apu.fs.mode = false ∧ s.apu.fs.irqInhibit = false ∧
          ∃ k < n, (s.apu.fs.counter + k + 1) % 29830 = 29829))

/-- Length counters (62 R643): a half frame takes one from a counter that is neither halted nor zero, and no
number of audio cycles raises one or moves a halted one. -/
def Obligations.LengthCounters : Prop :=
  (∀ u : Apu, let t := u.halfFrame
    t.pulse1.length.toNat = u.pulse1.length.toNat - (if u.pulse1.halt then 0 else 1) ∧
    t.pulse2.length.toNat = u.pulse2.length.toNat - (if u.pulse2.halt then 0 else 1) ∧
    t.tri.length.toNat = u.tri.length.toNat - (if u.tri.control then 0 else 1) ∧
    t.noise.length.toNat = u.noise.length.toNat - (if u.noise.halt then 0 else 1)) ∧
  (∀ (n : Nat) (s : State), let t := (State.apuTicks n s).apu
    t.pulse1.length.toNat ≤ s.apu.pulse1.length.toNat ∧
    t.pulse2.length.toNat ≤ s.apu.pulse2.length.toNat ∧
    t.tri.length.toNat ≤ s.apu.tri.length.toNat ∧ t.noise.length.toNat ≤ s.apu.noise.length.toNat ∧
    (s.apu.pulse1.halt = true → t.pulse1.length = s.apu.pulse1.length) ∧
    (s.apu.pulse2.halt = true → t.pulse2.length = s.apu.pulse2.length) ∧
    (s.apu.tri.control = true → t.tri.length = s.apu.tri.length) ∧
    (s.apu.noise.halt = true → t.noise.length = s.apu.noise.length))

/-- The delta channel's memory reader (62 R670, R672): a `Peek`, the address from $FFFF on to $8000, and the
restart or the interrupt flag at the last byte. -/
def Obligations.DeltaFetch : Prop :=
  ∀ s : State, let t := s.dmcReader
    let d := s.apu.dmc
    let v := (s.peek d.curAddr).1
    (d.buffer ≠ none ∨ d.remaining = 0 → t = s) ∧
    (d.buffer = none → d.remaining ≠ 0 →
      t = { s with apu := t.apu, draws := t.draws } ∧ t.apu.dmc.buffer = some v) ∧
    (d.buffer = none → 1 < d.remaining.toNat → t.apu = { s.apu with dmc := { d with
      buffer := some v
      curAddr := if d.curAddr.toNat = 65535 then 0x8000 else d.curAddr + 1
      remaining := d.remaining - 1 } }) ∧
    (d.buffer = none → d.remaining = 1 → d.loop = true → t.apu = { s.apu with dmc := { d with
      buffer := some v
      curAddr := BitVec.ofNat 16 (0xC000 + d.addrReg.toNat * 64)
      remaining := BitVec.ofNat 12 (d.lenReg.toNat * 16 + 1) } }) ∧
    (d.buffer = none → d.remaining = 1 → d.loop = false → t.apu = { s.apu with
      dmc := { d with
        buffer := some v
        curAddr := if d.curAddr.toNat = 65535 then 0x8000 else d.curAddr + 1
        remaining := 0 }
      dmcIrq := if d.irqEnable then true else s.apu.dmcIrq })

/-! ## Cartridge, reset and joypads -/

namespace Sys2Proof.Ref

/-- The magic bytes (63 R701). -/
def magic : List Byte := [0x4E, 0x45, 0x53, 0x1A]

/-- PRG size, declared CHR size and the offset of PRG data of a container (63 R701, R704). -/
def prgBytes (bytes : List Byte) : Nat := 16384 * (bytes.getD 4 0).toNat
def chrBytes (bytes : List Byte) : Nat := 8192 * (bytes.getD 5 0).toNat
def prgOffset (bytes : List Byte) : Nat := if (bytes.getD 6 0).getLsbD 2 then 528 else 16

/-- A machine after `n` reads of one address. -/
def afterReads (a : Addr) : Nat → State → State
  | 0, s => s
  | n + 1, s => afterReads a n (s.memRead a).2

/-- A pulse channel after a reset (70 R806). -/
def silentPulse : Pulse :=
  ⟨false, 0, 0, false, false, 0, ⟨false, 0, 0⟩, false, 0, false, 0, 0, false, 0, 0, 0⟩

end Sys2Proof.Ref

/-- The parse errors in their order, and no others; bytes after the CHR data are ignored (63 R702); a load
that fails answers the error. -/
def Obligations.ParseErrors : Prop :=
  ∀ (bytes : List Byte) (s : State),
    (bytes.length < 16 → State.load bytes s = .fault .tooShort) ∧
    (16 ≤ bytes.length → bytes.take 4 ≠ magic → State.load bytes s = .fault .badMagic) ∧
    (16 ≤ bytes.length → bytes.take 4 = magic →
      bytes.length < prgOffset bytes + prgBytes bytes + chrBytes bytes →
      State.load bytes s = .fault .truncated) ∧
    (16 ≤ bytes.length → bytes.take 4 = magic →
      prgOffset bytes + prgBytes bytes + chrBytes bytes ≤ bytes.length →
      ∃ c, parseRom bytes s.draws = .ok c ∧
        ∀ extra : List Byte, State.load (bytes ++ extra) s = State.load bytes s)

/-- An NROM image that parses (63 R701–R708, R720): no PRG bank is the one construction error; otherwise the
answer is the reset of the machine with the parsed cartridge in it (R712), whose values HardReset gives, with
the image's bytes in PRG and CHR memory, the header's fields, and PC from the word at $FFFC. The draw counter
is the model's own (log 1) and left open. -/
def Obligations.LoadBoots : Prop :=
  ∀ (bytes : List Byte) (s : State), 16 ≤ bytes.length → bytes.take 4 = magic →
    prgOffset bytes + prgBytes bytes + chrBytes bytes ≤ bytes.length →
    (bytes.getD 6 0).toNat / 16 = 0 → (bytes.getD 7 0).toNat / 16 = 0 →
    (prgBytes bytes = 0 → State.load bytes s = .fault (.badSize 0)) ∧
    (prgBytes bytes ≠ 0 → ∃ t c parsed draws, State.load bytes s = .next t ∧ t.cart = some c ∧
      parseRom bytes s.draws = .ok parsed ∧
      State.hardReset { s with cart := some parsed, draws := draws } = .next t ∧
      t.pc.toNat = 256 * (bytes.getD (prgOffset bytes + 0x7FFD % prgBytes bytes) 0).toNat
        + (bytes.getD (prgOffset bytes + 0x7FFC % prgBytes bytes) 0).toNat ∧
      c.mapperId = 0 ∧ c.prgSize = prgBytes bytes ∧
      (∀ k, k < prgBytes bytes → c.prgRom.read k = bytes.getD (prgOffset bytes + k) 0) ∧
      c.chrIsRam = decide (chrBytes bytes = 0) ∧
      c.chrSize = (if chrBytes bytes = 0 then 8192 else chrBytes bytes) ∧
      (∀ k, k < chrBytes bytes → c.chr.read k = bytes.getD (prgOffset bytes + prgBytes bytes + k) 0) ∧
      c.mirroring = (if (bytes.getD 6 0).getLsbD 3 then .fourScreen
        else if (bytes.getD 6 0).getLsbD 0 then .vertical else .horizontal) ∧
      c.battery = (bytes.getD 6 0).getLsbD 1 ∧
      c.headerVariant.toNat = (bytes.getD 7 0).toNat / 4 % 4)

/-- A reset (70 R801–R808): the values the spec gives every part, the buttons and the cartridge's ROM and
header kept, memories of unspecified contents left open; PC from the word the bus gives at $FFFC, which under
mapper 0 are PRG-ROM bytes. That the five unspecified memories take five stamps, so that the vector is read
with the draw counter at `draws + 5`, is the model's numbering (logs 1 and 2), and that a reset without a
cartridge is refused is the model's reading of 70 R810 and 92 D57 (log 3). -/
def Obligations.HardReset : Prop :=
  (∀ (s : State) (c : Cartridge), s.cart = some c → ∃ t d, s.hardReset = .next t ∧ t.cart = some d ∧
    t.a = 0 ∧ t.x = 0 ∧ t.y = 0 ∧ t.sp = 0xFD ∧ t.p.toByte = 0x24 ∧ t.cycles = 7 ∧
    t.nmiPending = false ∧ t.irqLine = false ∧
    (∀ k, t.ram.read k = 0) ∧ (∀ k, t.prgRam.read k = 0) ∧
    t.ppu = {
      ctrl := 0, mask := 0, vblank := false, spriteZeroHit := false, spriteOverflow := false
      oamAddr := 0, v := 0, t := 0, x := 0, w := false, readBuffer := 0
      ob := 0, ageLo := 0, ageB5 := 0, ageHi := 0, scanline := 0, dot := 0
      snap := List.replicate 240 ⟨0, 0, 0, 0, d.saveRenderState⟩
      pulseVblankStart := false, pulseFrameStart := false
      oam := t.ppu.oam, palette := t.ppu.palette, ciram := t.ppu.ciram, frame := t.ppu.frame } ∧
    t.apu = {
      pulse1 := silentPulse, pulse2 := silentPulse
      tri := ⟨false, false, 0, 0, false, 0, 0, 0, 0⟩
      noise := ⟨false, false, false, 0, ⟨false, 0, 0⟩, false, 0, 0, 1, 0⟩
      dmc := ⟨false, false, 0, 0, 0, 0, 0, 0, 0, none, 0, 0, false⟩
      fs := ⟨false, false, 0⟩, frameIrq := false, dmcIrq := false, out := ⟨0, 0, 0, []⟩, apuCycles := 0 } ∧
    t.pads = ⟨false, ⟨s.pads.pad0.buttons, 0, 0⟩, ⟨s.pads.pad1.buttons, 0, 0⟩⟩ ∧
    d = { c with regs := powerOnRegs c.mapperId, chr := d.chr } ∧ (c.chrIsRam = false → d.chr = c.chr) ∧
    (∀ lo hi : Byte × State, ({ t with draws := s.draws + 5 }).memRead 0xFFFC = lo → lo.2.memRead 0xFFFD = hi →
      t.pc.toNat = 256 * hi.1.toNat + lo.1.toNat) ∧
    (c.mapperId = 0 → t.pc.toNat = 256 * (c.prgRom.read (0x7FFD % c.prgSize)).toNat
      + (c.prgRom.read (0x7FFC % c.prgSize)).toNat)) ∧
  (∀ s : State, s.cart = none → s.hardReset = .refused .noCartridge)

/-- The joypads (63 R741–R743): after a write with bit 0 set and one with bit 0 clear, the reads of a port
give A, B, Select, Start, Up, Down, Left, Right of its pad and then ones, whatever the other port is read;
under the strobe every read gives A. -/
def Obligations.JoypadSequence : Prop :=
  ∀ (s : State) (hi lo : Byte) (second : Bool) (j k : Nat), hi.getLsbD 0 = true → lo.getLsbD 0 = false →
    let port := fun b : Bool => if b then (0x4017 : Addr) else 0x4016
    let held := s.memWrite 0x4016 hi
    let latched := afterReads (port (!second)) j (held.memWrite 0x4016 lo)
    ((afterReads (port second) k latched).memRead (port second)).1.getLsbD 0 =
      (if k < 8 then (s.pads.pad second).buttons.getLsbD k else true) ∧
    ((afterReads (port second) k held).memRead (port second)).1.getLsbD 0 =
      (s.pads.pad second).buttons.getLsbD 0

/-- The clocks stay in phase (60 R423): from reset on, the video chip has done three dots and the audio chip
one cycle for each processor cycle after the seventh. -/
def Obligations.ClockPhase : Prop :=
  let inPhase := fun s : State => s.ppu.scanline < 262 ∧ s.ppu.dot < 341 ∧ 7 ≤ s.cycles ∧
    dotIndex s.ppu = 3 * (s.cycles - 7) % 89342 ∧ s.apu.apuCycles = s.cycles - 7
  (∀ s t : State, s.hardReset = .next t → inPhase t) ∧
  (∀ s t : State, inPhase s → step s = .next t → inPhase t)
end

