-- ==== Sys2Proof/Laws/Memory.lean ====
section
/-! SUPPORT. Reading after writing, and the canonical form under every memory operation. -/

namespace Sys2Proof.Machine

/-! ### The cell list -/

theorem lookupCell_insert_same (a : Nat) (v : Byte) (cs : List Host.Cell) :
    lookupCell a (insertCell a v cs) = some v := by
  induction cs with
  | nil => simp [insertCell, lookupCell]
  | cons c cs ih =>
    by_cases h : c.1 < a
    · simp [insertCell, lookupCell, h, Nat.ne_of_lt h, ih]
    · by_cases h' : c.1 = a <;> simp [insertCell, lookupCell, h, h']

theorem lookupCell_insert_ne {a b : Nat} (hab : a ≠ b) (v : Byte) (cs : List Host.Cell) :
    lookupCell b (insertCell a v cs) = lookupCell b cs := by
  induction cs with
  | nil => simp [insertCell, lookupCell, hab]
  | cons c cs ih =>
    by_cases h : c.1 < a
    · simp [insertCell, lookupCell, h, ih]
    · by_cases h' : c.1 = a
      · subst h'; simp [insertCell, lookupCell, hab]
      · simp [insertCell, lookupCell, h, h', hab]

/-- A list that rises from `lo` lists no address below `lo`. -/
theorem lookupCell_below {lo a : Nat} {cs : List Host.Cell} (h : cellsRise lo cs = true) (ha : a < lo) :
    lookupCell a cs = none := by
  induction cs generalizing lo with
  | nil => rfl
  | cons c cs ih =>
    simp only [cellsRise, Bool.and_eq_true, decide_eq_true_eq] at h
    have hc : c.1 ≠ a := by omega
    simp [lookupCell, hc, ih h.2 (by omega)]

theorem lookupCell_erase_same {lo a : Nat} {cs : List Host.Cell} (h : cellsRise lo cs = true) :
    lookupCell a (eraseCell a cs) = none := by
  induction cs generalizing lo with
  | nil => rfl
  | cons c cs ih =>
    simp only [cellsRise, Bool.and_eq_true, decide_eq_true_eq] at h
    by_cases hc : c.1 = a
    · subst hc; simp [eraseCell, lookupCell_below h.2 (Nat.lt_succ_self _)]
    · simp [eraseCell, lookupCell, hc, ih h.2]

theorem lookupCell_erase_ne {a b : Nat} (hab : a ≠ b) (cs : List Host.Cell) :
    lookupCell b (eraseCell a cs) = lookupCell b cs := by
  induction cs with
  | nil => rfl
  | cons c cs ih =>
    by_cases hc : c.1 = a
    · subst hc; simp [eraseCell, lookupCell, hab]
    · simp [eraseCell, lookupCell, hc, ih]

theorem cellsRise_weaken {lo lo' : Nat} (hl : lo' ≤ lo) {cs : List Host.Cell}
    (h : cellsRise lo cs = true) : cellsRise lo' cs = true := by
  cases cs with
  | nil => rfl
  | cons c cs =>
    simp only [cellsRise, Bool.and_eq_true, decide_eq_true_eq] at h ⊢
    exact ⟨by omega, h.2⟩

theorem cellsRise_insert {lo a : Nat} (hl : lo ≤ a) (v : Byte) {cs : List Host.Cell}
    (h : cellsRise lo cs = true) : cellsRise lo (insertCell a v cs) = true := by
  induction cs generalizing lo with
  | nil => simp [insertCell, cellsRise, hl]
  | cons c cs ih =>
    simp only [cellsRise, Bool.and_eq_true, decide_eq_true_eq] at h
    by_cases hc : c.1 < a
    · simp [insertCell, cellsRise, hc, h.1, ih (Nat.succ_le_of_lt hc) h.2]
    · by_cases he : c.1 = a
      · subst he; simp [insertCell, cellsRise, hl, h.2]
      · have : a + 1 ≤ c.1 := by omega
        simp [insertCell, cellsRise, hc, he, hl, this, h.2]

theorem cellsRise_erase {lo a : Nat} {cs : List Host.Cell}
    (h : cellsRise lo cs = true) : cellsRise lo (eraseCell a cs) = true := by
  induction cs generalizing lo with
  | nil => rfl
  | cons c cs ih =>
    simp only [cellsRise, Bool.and_eq_true, decide_eq_true_eq] at h
    by_cases hc : c.1 = a
    · simpa [eraseCell, hc] using cellsRise_weaken (by omega) h.2
    · simp [eraseCell, cellsRise, hc, h.1, ih h.2]

theorem mem_insertCell {a : Nat} {v : Byte} {cs : List Host.Cell} {c : Host.Cell}
    (h : c ∈ insertCell a v cs) : c = (a, v) ∨ c ∈ cs := by
  induction cs with
  | nil => simpa [insertCell] using h
  | cons d cs ih =>
    by_cases h1 : d.1 < a
    · simp only [insertCell, h1, if_true, List.mem_cons] at h
      rcases h with rfl | h
      · simp
      · rcases ih h with h | h <;> simp [h]
    · rw [insertCell, if_neg h1] at h
      by_cases h2 : d.1 = a
      · rw [if_pos h2] at h
        rcases List.mem_cons.mp h with h | h <;> simp [h]
      · rw [if_neg h2] at h
        rcases List.mem_cons.mp h with h | h
        · simp [h]
        · exact .inr h

theorem mem_eraseCell {a : Nat} {cs : List Host.Cell} {c : Host.Cell}
    (h : c ∈ eraseCell a cs) : c ∈ cs := by
  induction cs with
  | nil => simp [eraseCell] at h
  | cons d cs ih =>
    by_cases h1 : d.1 = a
    · rw [eraseCell, if_pos h1] at h
      simp [h]
    · rw [eraseCell, if_neg h1] at h
      rcases List.mem_cons.mp h with h | h
      · simp [h]
      · simp [ih h]

/-! ### Memories -/

theorem Fill.byteAt_of_absorbs {f : Fill} {v : Byte} (h : f.absorbs v = true) (a : Nat) :
    f.byteAt a = v := by
  cases f with
  | zero => simpa [Fill.absorbs, Fill.byteAt] using (beq_iff_eq.mp h).symm
  | drawn n => simp [Fill.absorbs] at h

/-- The two parts of the canonical form. -/
theorem Memory.wf_iff {size : Nat} {m : Memory} : m.wf size = true ↔
    cellsRise 0 m.cells = true ∧ ∀ c ∈ m.cells, c.1 < size ∧ m.fill.absorbs c.2 = false := by
  simp [Memory.wf]

/-- A read after a write to the same place gives the byte written. -/
theorem Memory.read_write_same {size : Nat} {m : Memory} (h : m.wf size = true) (a : Nat) (v : Byte) :
    (m.write a v).read a = v := by
  have hr := (Memory.wf_iff.mp h).1
  unfold Memory.write Memory.read
  by_cases hv : m.fill.absorbs v = true
  · simp [hv, lookupCell_erase_same hr, Fill.byteAt_of_absorbs hv]
  · simp [hv, lookupCell_insert_same]

/-- A write leaves every other place alone. -/
theorem Memory.read_write_ne {m : Memory} {a b : Nat} (hab : a ≠ b) (v : Byte) :
    (m.write a v).read b = m.read b := by
  unfold Memory.write Memory.read
  by_cases hv : m.fill.absorbs v = true
  · simp [hv, lookupCell_erase_ne hab]
  · simp [hv, lookupCell_insert_ne hab]

@[simp] theorem Memory.write_fill (m : Memory) (a : Nat) (v : Byte) : (m.write a v).fill = m.fill := rfl

/-- A write inside the memory keeps the canonical form. -/
theorem Memory.write_wf {size : Nat} {m : Memory} (h : m.wf size = true) {a : Nat} (ha : a < size)
    (v : Byte) : (m.write a v).wf size = true := by
  obtain ⟨hr, hc⟩ := Memory.wf_iff.mp h
  refine Memory.wf_iff.mpr ?_
  unfold Memory.write
  by_cases hv : m.fill.absorbs v = true
  · simp only [hv, if_true]
    exact ⟨cellsRise_erase hr, fun c hm => hc c (mem_eraseCell hm)⟩
  · simp only [hv]
    refine ⟨cellsRise_insert (Nat.zero_le a) v hr, fun c hm => ?_⟩
    rcases mem_insertCell hm with rfl | hm
    · exact ⟨ha, by simpa using hv⟩
    · exact hc c hm

/-- A listed byte after a write is the one written or was listed before. -/
theorem Memory.mem_write {m : Memory} {a : Nat} {v : Byte} {c : Host.Cell}
    (h : c ∈ (m.write a v).cells) : c = (a, v) ∨ c ∈ m.cells := by
  unfold Memory.write at h
  by_cases hv : m.fill.absorbs v = true
  · simp only [hv, if_true] at h; exact .inr (mem_eraseCell h)
  · simp only [hv] at h; exact mem_insertCell h

/-- A memory with nothing listed is canonical. -/
theorem Memory.wf_nil (size : Nat) (f : Fill) : (Memory.mk f []).wf size = true := rfl

theorem cellsRise_ofBytes (a : Nat) (vs : List Byte) : cellsRise a (cellsOfBytes a vs) = true := by
  induction vs generalizing a with
  | nil => rfl
  | cons v vs ih =>
    by_cases hv : v = 0
    · rw [cellsOfBytes, if_pos hv]
      exact cellsRise_weaken (Nat.le_succ a) (ih (a + 1))
    · rw [cellsOfBytes, if_neg hv]
      simp [cellsRise, ih]

theorem mem_cellsOfBytes {a : Nat} {vs : List Byte} {c : Host.Cell} (h : c ∈ cellsOfBytes a vs) :
    c.1 < a + vs.length ∧ c.2 ≠ 0 := by
  induction vs generalizing a with
  | nil => simp [cellsOfBytes] at h
  | cons v vs ih =>
    by_cases hv : v = 0
    · rw [cellsOfBytes, if_pos hv] at h
      have := ih h
      simp only [List.length_cons]
      exact ⟨by omega, this.2⟩
    · rw [cellsOfBytes, if_neg hv] at h
      simp only [List.length_cons]
      rcases List.mem_cons.mp h with rfl | h
      · exact ⟨by simp, hv⟩
      · have := ih h
        exact ⟨by omega, this.2⟩

/-- A memory made of bytes is canonical in any size that holds them. -/
theorem Memory.wf_ofBytes {size : Nat} {vs : List Byte} (h : vs.length ≤ size) :
    (Memory.ofBytes vs).wf size = true := by
  refine Memory.wf_iff.mpr ⟨cellsRise_ofBytes 0 vs, fun c hc => ?_⟩
  have := mem_cellsOfBytes hc
  exact ⟨by omega, by simpa [Memory.ofBytes, Fill.absorbs] using this.2⟩

/-- A memory made of bytes reads as those bytes, and as $00 behind them. -/
theorem Memory.read_ofBytes (vs : List Byte) (k : Nat) : (Memory.ofBytes vs).read k = vs.getD k 0 := by
  have key : ∀ (vs : List Byte) (a k : Nat),
      (lookupCell (a + k) (cellsOfBytes a vs)).getD 0 = vs.getD k 0 := by
    intro vs
    induction vs with
    | nil => intro a k; rfl
    | cons v vs ih =>
      intro a k
      have below : lookupCell a (cellsOfBytes (a + 1) vs) = none :=
        lookupCell_below (cellsRise_ofBytes (a + 1) vs) (Nat.lt_succ_self a)
      unfold cellsOfBytes
      cases k with
      | zero =>
        split
        · next hv => simp [below, hv]
        · simp [lookupCell]
      | succ k =>
        have h := ih (a + 1) k
        rw [show a + 1 + k = a + (k + 1) by omega] at h
        split
        · simpa using h
        · rw [lookupCell, if_neg (by show ¬ a = a + (k + 1); omega)]
          simpa using h
  have h := key vs 0 k
  rw [Nat.zero_add] at h
  unfold Memory.read Memory.ofBytes
  dsimp only
  cases e : lookupCell k (cellsOfBytes 0 vs) <;> rw [e] at h <;> exact h

end Sys2Proof.Machine
end

