-- ==== Sys2Proof/Laws/State.lean ====
section
/-! SUPPORT. What each named update of State does to each field: one lemma for a field and an update. -/

namespace Sys2Proof.Machine

variable (s : State)

/-! ### setNZ -/

@[simp] theorem State.setNZ_a (v : Byte) : (s.setNZ v).a = s.a := rfl
@[simp] theorem State.setNZ_x (v : Byte) : (s.setNZ v).x = s.x := rfl
@[simp] theorem State.setNZ_y (v : Byte) : (s.setNZ v).y = s.y := rfl
@[simp] theorem State.setNZ_sp (v : Byte) : (s.setNZ v).sp = s.sp := rfl
@[simp] theorem State.setNZ_p (v : Byte) : (s.setNZ v).p = { s.p with z := v == 0, n := v.getLsbD 7 } := rfl
@[simp] theorem State.setNZ_pc (v : Byte) : (s.setNZ v).pc = s.pc := rfl
@[simp] theorem State.setNZ_cycles (v : Byte) : (s.setNZ v).cycles = s.cycles := rfl
@[simp] theorem State.setNZ_nmiPending (v : Byte) : (s.setNZ v).nmiPending = s.nmiPending := rfl
@[simp] theorem State.setNZ_irqLine (v : Byte) : (s.setNZ v).irqLine = s.irqLine := rfl
@[simp] theorem State.setNZ_ram (v : Byte) : (s.setNZ v).ram = s.ram := rfl
@[simp] theorem State.setNZ_prgRam (v : Byte) : (s.setNZ v).prgRam = s.prgRam := rfl
@[simp] theorem State.setNZ_ppu (v : Byte) : (s.setNZ v).ppu = s.ppu := rfl
@[simp] theorem State.setNZ_apu (v : Byte) : (s.setNZ v).apu = s.apu := rfl
@[simp] theorem State.setNZ_cart (v : Byte) : (s.setNZ v).cart = s.cart := rfl
@[simp] theorem State.setNZ_pads (v : Byte) : (s.setNZ v).pads = s.pads := rfl
@[simp] theorem State.setNZ_draws (v : Byte) : (s.setNZ v).draws = s.draws := rfl

/-! ### setC -/

@[simp] theorem State.setC_a (b : Bool) : (s.setC b).a = s.a := rfl
@[simp] theorem State.setC_x (b : Bool) : (s.setC b).x = s.x := rfl
@[simp] theorem State.setC_y (b : Bool) : (s.setC b).y = s.y := rfl
@[simp] theorem State.setC_sp (b : Bool) : (s.setC b).sp = s.sp := rfl
@[simp] theorem State.setC_p (b : Bool) : (s.setC b).p = { s.p with c := b } := rfl
@[simp] theorem State.setC_pc (b : Bool) : (s.setC b).pc = s.pc := rfl
@[simp] theorem State.setC_cycles (b : Bool) : (s.setC b).cycles = s.cycles := rfl
@[simp] theorem State.setC_nmiPending (b : Bool) : (s.setC b).nmiPending = s.nmiPending := rfl
@[simp] theorem State.setC_irqLine (b : Bool) : (s.setC b).irqLine = s.irqLine := rfl
@[simp] theorem State.setC_ram (b : Bool) : (s.setC b).ram = s.ram := rfl
@[simp] theorem State.setC_prgRam (b : Bool) : (s.setC b).prgRam = s.prgRam := rfl
@[simp] theorem State.setC_ppu (b : Bool) : (s.setC b).ppu = s.ppu := rfl
@[simp] theorem State.setC_apu (b : Bool) : (s.setC b).apu = s.apu := rfl
@[simp] theorem State.setC_cart (b : Bool) : (s.setC b).cart = s.cart := rfl
@[simp] theorem State.setC_pads (b : Bool) : (s.setC b).pads = s.pads := rfl
@[simp] theorem State.setC_draws (b : Bool) : (s.setC b).draws = s.draws := rfl

/-! ### addC -/

@[simp] theorem State.addC_x (m : Byte) : (s.addC m).x = s.x := rfl
@[simp] theorem State.addC_y (m : Byte) : (s.addC m).y = s.y := rfl
@[simp] theorem State.addC_sp (m : Byte) : (s.addC m).sp = s.sp := rfl
@[simp] theorem State.addC_pc (m : Byte) : (s.addC m).pc = s.pc := rfl
@[simp] theorem State.addC_cycles (m : Byte) : (s.addC m).cycles = s.cycles := rfl
@[simp] theorem State.addC_nmiPending (m : Byte) : (s.addC m).nmiPending = s.nmiPending := rfl
@[simp] theorem State.addC_irqLine (m : Byte) : (s.addC m).irqLine = s.irqLine := rfl
@[simp] theorem State.addC_ram (m : Byte) : (s.addC m).ram = s.ram := rfl
@[simp] theorem State.addC_prgRam (m : Byte) : (s.addC m).prgRam = s.prgRam := rfl
@[simp] theorem State.addC_ppu (m : Byte) : (s.addC m).ppu = s.ppu := rfl
@[simp] theorem State.addC_apu (m : Byte) : (s.addC m).apu = s.apu := rfl
@[simp] theorem State.addC_cart (m : Byte) : (s.addC m).cart = s.cart := rfl
@[simp] theorem State.addC_pads (m : Byte) : (s.addC m).pads = s.pads := rfl
@[simp] theorem State.addC_draws (m : Byte) : (s.addC m).draws = s.draws := rfl

/-! ### compare -/

@[simp] theorem State.compare_a (r m : Byte) : (s.compare r m).a = s.a := rfl
@[simp] theorem State.compare_x (r m : Byte) : (s.compare r m).x = s.x := rfl
@[simp] theorem State.compare_y (r m : Byte) : (s.compare r m).y = s.y := rfl
@[simp] theorem State.compare_sp (r m : Byte) : (s.compare r m).sp = s.sp := rfl
@[simp] theorem State.compare_pc (r m : Byte) : (s.compare r m).pc = s.pc := rfl
@[simp] theorem State.compare_cycles (r m : Byte) : (s.compare r m).cycles = s.cycles := rfl
@[simp] theorem State.compare_nmiPending (r m : Byte) : (s.compare r m).nmiPending = s.nmiPending := rfl
@[simp] theorem State.compare_irqLine (r m : Byte) : (s.compare r m).irqLine = s.irqLine := rfl
@[simp] theorem State.compare_ram (r m : Byte) : (s.compare r m).ram = s.ram := rfl
@[simp] theorem State.compare_prgRam (r m : Byte) : (s.compare r m).prgRam = s.prgRam := rfl
@[simp] theorem State.compare_ppu (r m : Byte) : (s.compare r m).ppu = s.ppu := rfl
@[simp] theorem State.compare_apu (r m : Byte) : (s.compare r m).apu = s.apu := rfl
@[simp] theorem State.compare_cart (r m : Byte) : (s.compare r m).cart = s.cart := rfl
@[simp] theorem State.compare_pads (r m : Byte) : (s.compare r m).pads = s.pads := rfl
@[simp] theorem State.compare_draws (r m : Byte) : (s.compare r m).draws = s.draws := rfl

/-! ### bitTest -/

@[simp] theorem State.bitTest_a (m : Byte) : (s.bitTest m).a = s.a := rfl
@[simp] theorem State.bitTest_x (m : Byte) : (s.bitTest m).x = s.x := rfl
@[simp] theorem State.bitTest_y (m : Byte) : (s.bitTest m).y = s.y := rfl
@[simp] theorem State.bitTest_sp (m : Byte) : (s.bitTest m).sp = s.sp := rfl
@[simp] theorem State.bitTest_pc (m : Byte) : (s.bitTest m).pc = s.pc := rfl
@[simp] theorem State.bitTest_cycles (m : Byte) : (s.bitTest m).cycles = s.cycles := rfl
@[simp] theorem State.bitTest_nmiPending (m : Byte) : (s.bitTest m).nmiPending = s.nmiPending := rfl
@[simp] theorem State.bitTest_irqLine (m : Byte) : (s.bitTest m).irqLine = s.irqLine := rfl
@[simp] theorem State.bitTest_ram (m : Byte) : (s.bitTest m).ram = s.ram := rfl
@[simp] theorem State.bitTest_prgRam (m : Byte) : (s.bitTest m).prgRam = s.prgRam := rfl
@[simp] theorem State.bitTest_ppu (m : Byte) : (s.bitTest m).ppu = s.ppu := rfl
@[simp] theorem State.bitTest_apu (m : Byte) : (s.bitTest m).apu = s.apu := rfl
@[simp] theorem State.bitTest_cart (m : Byte) : (s.bitTest m).cart = s.cart := rfl
@[simp] theorem State.bitTest_pads (m : Byte) : (s.bitTest m).pads = s.pads := rfl
@[simp] theorem State.bitTest_draws (m : Byte) : (s.bitTest m).draws = s.draws := rfl

/-! ### charge -/

@[simp] theorem State.charge_a (n : Nat) : (s.charge n).a = s.a := rfl
@[simp] theorem State.charge_x (n : Nat) : (s.charge n).x = s.x := rfl
@[simp] theorem State.charge_y (n : Nat) : (s.charge n).y = s.y := rfl
@[simp] theorem State.charge_sp (n : Nat) : (s.charge n).sp = s.sp := rfl
@[simp] theorem State.charge_p (n : Nat) : (s.charge n).p = s.p := rfl
@[simp] theorem State.charge_pc (n : Nat) : (s.charge n).pc = s.pc := rfl
@[simp] theorem State.charge_cycles (n : Nat) : (s.charge n).cycles = s.cycles + n := rfl
@[simp] theorem State.charge_nmiPending (n : Nat) : (s.charge n).nmiPending = s.nmiPending := rfl
@[simp] theorem State.charge_irqLine (n : Nat) : (s.charge n).irqLine = s.irqLine := rfl
@[simp] theorem State.charge_ram (n : Nat) : (s.charge n).ram = s.ram := rfl
@[simp] theorem State.charge_prgRam (n : Nat) : (s.charge n).prgRam = s.prgRam := rfl
@[simp] theorem State.charge_ppu (n : Nat) : (s.charge n).ppu = s.ppu := rfl
@[simp] theorem State.charge_apu (n : Nat) : (s.charge n).apu = s.apu := rfl
@[simp] theorem State.charge_cart (n : Nat) : (s.charge n).cart = s.cart := rfl
@[simp] theorem State.charge_pads (n : Nat) : (s.charge n).pads = s.pads := rfl
@[simp] theorem State.charge_draws (n : Nat) : (s.charge n).draws = s.draws := rfl

/-! ### advance -/

@[simp] theorem State.advance_a (n : Nat) : (s.advance n).a = s.a := rfl
@[simp] theorem State.advance_x (n : Nat) : (s.advance n).x = s.x := rfl
@[simp] theorem State.advance_y (n : Nat) : (s.advance n).y = s.y := rfl
@[simp] theorem State.advance_sp (n : Nat) : (s.advance n).sp = s.sp := rfl
@[simp] theorem State.advance_p (n : Nat) : (s.advance n).p = s.p := rfl
@[simp] theorem State.advance_pc (n : Nat) : (s.advance n).pc = s.pc + BitVec.ofNat 16 n := rfl
@[simp] theorem State.advance_cycles (n : Nat) : (s.advance n).cycles = s.cycles := rfl
@[simp] theorem State.advance_nmiPending (n : Nat) : (s.advance n).nmiPending = s.nmiPending := rfl
@[simp] theorem State.advance_irqLine (n : Nat) : (s.advance n).irqLine = s.irqLine := rfl
@[simp] theorem State.advance_ram (n : Nat) : (s.advance n).ram = s.ram := rfl
@[simp] theorem State.advance_prgRam (n : Nat) : (s.advance n).prgRam = s.prgRam := rfl
@[simp] theorem State.advance_ppu (n : Nat) : (s.advance n).ppu = s.ppu := rfl
@[simp] theorem State.advance_apu (n : Nat) : (s.advance n).apu = s.apu := rfl
@[simp] theorem State.advance_cart (n : Nat) : (s.advance n).cart = s.cart := rfl
@[simp] theorem State.advance_pads (n : Nat) : (s.advance n).pads = s.pads := rfl
@[simp] theorem State.advance_draws (n : Nat) : (s.advance n).draws = s.draws := rfl

/-! ### jump -/

@[simp] theorem State.jump_a (t : Addr) : (s.jump t).a = s.a := rfl
@[simp] theorem State.jump_x (t : Addr) : (s.jump t).x = s.x := rfl
@[simp] theorem State.jump_y (t : Addr) : (s.jump t).y = s.y := rfl
@[simp] theorem State.jump_sp (t : Addr) : (s.jump t).sp = s.sp := rfl
@[simp] theorem State.jump_p (t : Addr) : (s.jump t).p = s.p := rfl
@[simp] theorem State.jump_pc (t : Addr) : (s.jump t).pc = t := rfl
@[simp] theorem State.jump_cycles (t : Addr) : (s.jump t).cycles = s.cycles := rfl
@[simp] theorem State.jump_nmiPending (t : Addr) : (s.jump t).nmiPending = s.nmiPending := rfl
@[simp] theorem State.jump_irqLine (t : Addr) : (s.jump t).irqLine = s.irqLine := rfl
@[simp] theorem State.jump_ram (t : Addr) : (s.jump t).ram = s.ram := rfl
@[simp] theorem State.jump_prgRam (t : Addr) : (s.jump t).prgRam = s.prgRam := rfl
@[simp] theorem State.jump_ppu (t : Addr) : (s.jump t).ppu = s.ppu := rfl
@[simp] theorem State.jump_apu (t : Addr) : (s.jump t).apu = s.apu := rfl
@[simp] theorem State.jump_cart (t : Addr) : (s.jump t).cart = s.cart := rfl
@[simp] theorem State.jump_pads (t : Addr) : (s.jump t).pads = s.pads := rfl
@[simp] theorem State.jump_draws (t : Addr) : (s.jump t).draws = s.draws := rfl

/-! ### loadA -/

@[simp] theorem State.loadA_a (v : Byte) : (s.loadA v).a = v := rfl
@[simp] theorem State.loadA_x (v : Byte) : (s.loadA v).x = s.x := rfl
@[simp] theorem State.loadA_y (v : Byte) : (s.loadA v).y = s.y := rfl
@[simp] theorem State.loadA_sp (v : Byte) : (s.loadA v).sp = s.sp := rfl
@[simp] theorem State.loadA_p (v : Byte) : (s.loadA v).p = { s.p with z := v == 0, n := v.getLsbD 7 } := rfl
@[simp] theorem State.loadA_pc (v : Byte) : (s.loadA v).pc = s.pc := rfl
@[simp] theorem State.loadA_cycles (v : Byte) : (s.loadA v).cycles = s.cycles := rfl
@[simp] theorem State.loadA_nmiPending (v : Byte) : (s.loadA v).nmiPending = s.nmiPending := rfl
@[simp] theorem State.loadA_irqLine (v : Byte) : (s.loadA v).irqLine = s.irqLine := rfl
@[simp] theorem State.loadA_ram (v : Byte) : (s.loadA v).ram = s.ram := rfl
@[simp] theorem State.loadA_prgRam (v : Byte) : (s.loadA v).prgRam = s.prgRam := rfl
@[simp] theorem State.loadA_ppu (v : Byte) : (s.loadA v).ppu = s.ppu := rfl
@[simp] theorem State.loadA_apu (v : Byte) : (s.loadA v).apu = s.apu := rfl
@[simp] theorem State.loadA_cart (v : Byte) : (s.loadA v).cart = s.cart := rfl
@[simp] theorem State.loadA_pads (v : Byte) : (s.loadA v).pads = s.pads := rfl
@[simp] theorem State.loadA_draws (v : Byte) : (s.loadA v).draws = s.draws := rfl

/-! ### loadX -/

@[simp] theorem State.loadX_a (v : Byte) : (s.loadX v).a = s.a := rfl
@[simp] theorem State.loadX_x (v : Byte) : (s.loadX v).x = v := rfl
@[simp] theorem State.loadX_y (v : Byte) : (s.loadX v).y = s.y := rfl
@[simp] theorem State.loadX_sp (v : Byte) : (s.loadX v).sp = s.sp := rfl
@[simp] theorem State.loadX_p (v : Byte) : (s.loadX v).p = { s.p with z := v == 0, n := v.getLsbD 7 } := rfl
@[simp] theorem State.loadX_pc (v : Byte) : (s.loadX v).pc = s.pc := rfl
@[simp] theorem State.loadX_cycles (v : Byte) : (s.loadX v).cycles = s.cycles := rfl
@[simp] theorem State.loadX_nmiPending (v : Byte) : (s.loadX v).nmiPending = s.nmiPending := rfl
@[simp] theorem State.loadX_irqLine (v : Byte) : (s.loadX v).irqLine = s.irqLine := rfl
@[simp] theorem State.loadX_ram (v : Byte) : (s.loadX v).ram = s.ram := rfl
@[simp] theorem State.loadX_prgRam (v : Byte) : (s.loadX v).prgRam = s.prgRam := rfl
@[simp] theorem State.loadX_ppu (v : Byte) : (s.loadX v).ppu = s.ppu := rfl
@[simp] theorem State.loadX_apu (v : Byte) : (s.loadX v).apu = s.apu := rfl
@[simp] theorem State.loadX_cart (v : Byte) : (s.loadX v).cart = s.cart := rfl
@[simp] theorem State.loadX_pads (v : Byte) : (s.loadX v).pads = s.pads := rfl
@[simp] theorem State.loadX_draws (v : Byte) : (s.loadX v).draws = s.draws := rfl

/-! ### loadY -/

@[simp] theorem State.loadY_a (v : Byte) : (s.loadY v).a = s.a := rfl
@[simp] theorem State.loadY_x (v : Byte) : (s.loadY v).x = s.x := rfl
@[simp] theorem State.loadY_y (v : Byte) : (s.loadY v).y = v := rfl
@[simp] theorem State.loadY_sp (v : Byte) : (s.loadY v).sp = s.sp := rfl
@[simp] theorem State.loadY_p (v : Byte) : (s.loadY v).p = { s.p with z := v == 0, n := v.getLsbD 7 } := rfl
@[simp] theorem State.loadY_pc (v : Byte) : (s.loadY v).pc = s.pc := rfl
@[simp] theorem State.loadY_cycles (v : Byte) : (s.loadY v).cycles = s.cycles := rfl
@[simp] theorem State.loadY_nmiPending (v : Byte) : (s.loadY v).nmiPending = s.nmiPending := rfl
@[simp] theorem State.loadY_irqLine (v : Byte) : (s.loadY v).irqLine = s.irqLine := rfl
@[simp] theorem State.loadY_ram (v : Byte) : (s.loadY v).ram = s.ram := rfl
@[simp] theorem State.loadY_prgRam (v : Byte) : (s.loadY v).prgRam = s.prgRam := rfl
@[simp] theorem State.loadY_ppu (v : Byte) : (s.loadY v).ppu = s.ppu := rfl
@[simp] theorem State.loadY_apu (v : Byte) : (s.loadY v).apu = s.apu := rfl
@[simp] theorem State.loadY_cart (v : Byte) : (s.loadY v).cart = s.cart := rfl
@[simp] theorem State.loadY_pads (v : Byte) : (s.loadY v).pads = s.pads := rfl
@[simp] theorem State.loadY_draws (v : Byte) : (s.loadY v).draws = s.draws := rfl

/-! ### implied -/

@[simp] theorem State.implied_a (n : Nat) : (s.implied n).a = s.a := rfl
@[simp] theorem State.implied_x (n : Nat) : (s.implied n).x = s.x := rfl
@[simp] theorem State.implied_y (n : Nat) : (s.implied n).y = s.y := rfl
@[simp] theorem State.implied_sp (n : Nat) : (s.implied n).sp = s.sp := rfl
@[simp] theorem State.implied_p (n : Nat) : (s.implied n).p = s.p := rfl
@[simp] theorem State.implied_pc (n : Nat) : (s.implied n).pc = s.pc + 1 := rfl
@[simp] theorem State.implied_cycles (n : Nat) : (s.implied n).cycles = s.cycles + n := rfl
@[simp] theorem State.implied_nmiPending (n : Nat) : (s.implied n).nmiPending = s.nmiPending := rfl
@[simp] theorem State.implied_irqLine (n : Nat) : (s.implied n).irqLine = s.irqLine := rfl
@[simp] theorem State.implied_ram (n : Nat) : (s.implied n).ram = s.ram := rfl
@[simp] theorem State.implied_prgRam (n : Nat) : (s.implied n).prgRam = s.prgRam := rfl
@[simp] theorem State.implied_ppu (n : Nat) : (s.implied n).ppu = s.ppu := rfl
@[simp] theorem State.implied_apu (n : Nat) : (s.implied n).apu = s.apu := rfl
@[simp] theorem State.implied_cart (n : Nat) : (s.implied n).cart = s.cart := rfl
@[simp] theorem State.implied_pads (n : Nat) : (s.implied n).pads = s.pads := rfl
@[simp] theorem State.implied_draws (n : Nat) : (s.implied n).draws = s.draws := rfl

/-! ### sampleIrq -/

@[simp] theorem State.sampleIrq_a : s.sampleIrq.a = s.a := rfl
@[simp] theorem State.sampleIrq_x : s.sampleIrq.x = s.x := rfl
@[simp] theorem State.sampleIrq_y : s.sampleIrq.y = s.y := rfl
@[simp] theorem State.sampleIrq_sp : s.sampleIrq.sp = s.sp := rfl
@[simp] theorem State.sampleIrq_p : s.sampleIrq.p = s.p := rfl
@[simp] theorem State.sampleIrq_pc : s.sampleIrq.pc = s.pc := rfl
@[simp] theorem State.sampleIrq_cycles : s.sampleIrq.cycles = s.cycles := rfl
@[simp] theorem State.sampleIrq_nmiPending : s.sampleIrq.nmiPending = s.nmiPending := rfl
@[simp] theorem State.sampleIrq_irqLine : s.sampleIrq.irqLine = (s.apu.frameIrq || s.apu.dmcIrq || s.mapperIrq) := rfl
@[simp] theorem State.sampleIrq_ram : s.sampleIrq.ram = s.ram := rfl
@[simp] theorem State.sampleIrq_prgRam : s.sampleIrq.prgRam = s.prgRam := rfl
@[simp] theorem State.sampleIrq_ppu : s.sampleIrq.ppu = s.ppu := rfl
@[simp] theorem State.sampleIrq_apu : s.sampleIrq.apu = s.apu := rfl
@[simp] theorem State.sampleIrq_cart : s.sampleIrq.cart = s.cart := rfl
@[simp] theorem State.sampleIrq_pads : s.sampleIrq.pads = s.pads := rfl
@[simp] theorem State.sampleIrq_draws : s.sampleIrq.draws = s.draws := rfl

/-! ### clearPulses -/

@[simp] theorem State.clearPulses_a : s.clearPulses.a = s.a := rfl
@[simp] theorem State.clearPulses_x : s.clearPulses.x = s.x := rfl
@[simp] theorem State.clearPulses_y : s.clearPulses.y = s.y := rfl
@[simp] theorem State.clearPulses_sp : s.clearPulses.sp = s.sp := rfl
@[simp] theorem State.clearPulses_p : s.clearPulses.p = s.p := rfl
@[simp] theorem State.clearPulses_pc : s.clearPulses.pc = s.pc := rfl
@[simp] theorem State.clearPulses_cycles : s.clearPulses.cycles = s.cycles := rfl
@[simp] theorem State.clearPulses_nmiPending : s.clearPulses.nmiPending = s.nmiPending := rfl
@[simp] theorem State.clearPulses_irqLine : s.clearPulses.irqLine = s.irqLine := rfl
@[simp] theorem State.clearPulses_ram : s.clearPulses.ram = s.ram := rfl
@[simp] theorem State.clearPulses_prgRam : s.clearPulses.prgRam = s.prgRam := rfl
@[simp] theorem State.clearPulses_ppu : s.clearPulses.ppu = { s.ppu with pulseVblankStart := false, pulseFrameStart := false } := rfl
@[simp] theorem State.clearPulses_apu : s.clearPulses.apu = s.apu := rfl
@[simp] theorem State.clearPulses_cart : s.clearPulses.cart = s.cart := rfl
@[simp] theorem State.clearPulses_pads : s.clearPulses.pads = s.pads := rfl
@[simp] theorem State.clearPulses_draws : s.clearPulses.draws = s.draws := rfl

/-! ### clockMapper -/

@[simp] theorem State.clockMapper_a (n : Nat) : (s.clockMapper n).a = s.a := rfl
@[simp] theorem State.clockMapper_x (n : Nat) : (s.clockMapper n).x = s.x := rfl
@[simp] theorem State.clockMapper_y (n : Nat) : (s.clockMapper n).y = s.y := rfl
@[simp] theorem State.clockMapper_sp (n : Nat) : (s.clockMapper n).sp = s.sp := rfl
@[simp] theorem State.clockMapper_p (n : Nat) : (s.clockMapper n).p = s.p := rfl
@[simp] theorem State.clockMapper_pc (n : Nat) : (s.clockMapper n).pc = s.pc := rfl
@[simp] theorem State.clockMapper_cycles (n : Nat) : (s.clockMapper n).cycles = s.cycles := rfl
@[simp] theorem State.clockMapper_nmiPending (n : Nat) : (s.clockMapper n).nmiPending = s.nmiPending := rfl
@[simp] theorem State.clockMapper_irqLine (n : Nat) : (s.clockMapper n).irqLine = s.irqLine := rfl
@[simp] theorem State.clockMapper_ram (n : Nat) : (s.clockMapper n).ram = s.ram := rfl
@[simp] theorem State.clockMapper_prgRam (n : Nat) : (s.clockMapper n).prgRam = s.prgRam := rfl
@[simp] theorem State.clockMapper_ppu (n : Nat) : (s.clockMapper n).ppu = s.ppu := rfl
@[simp] theorem State.clockMapper_apu (n : Nat) : (s.clockMapper n).apu = s.apu := rfl
@[simp] theorem State.clockMapper_cart (n : Nat) : (s.clockMapper n).cart = s.cart.map (·.onCpuCycles n) := rfl
@[simp] theorem State.clockMapper_pads (n : Nat) : (s.clockMapper n).pads = s.pads := rfl
@[simp] theorem State.clockMapper_draws (n : Nat) : (s.clockMapper n).draws = s.draws := rfl

/-! ### The flags of the arithmetic updates -/

@[simp] theorem State.addC_d (m : Byte) : (s.addC m).p.d = s.p.d := rfl
@[simp] theorem State.addC_i (m : Byte) : (s.addC m).p.i = s.p.i := rfl
@[simp] theorem State.compare_v (r m : Byte) : (s.compare r m).p.v = s.p.v := rfl
@[simp] theorem State.compare_d (r m : Byte) : (s.compare r m).p.d = s.p.d := rfl
@[simp] theorem State.compare_i (r m : Byte) : (s.compare r m).p.i = s.p.i := rfl
@[simp] theorem State.bitTest_c (m : Byte) : (s.bitTest m).p.c = s.p.c := rfl
@[simp] theorem State.bitTest_d (m : Byte) : (s.bitTest m).p.d = s.p.d := rfl
@[simp] theorem State.bitTest_i (m : Byte) : (s.bitTest m).p.i = s.p.i := rfl

end Sys2Proof.Machine
end

