-- ==== Sys2Proof/Laws/Bus.lean ====
section
/-! SUPPORT. What a bus read and a bus write can do: the rows of 20 R74, the processor's registers across an
access, work RAM, the stack, OAM DMA. -/

namespace Sys2Proof.Machine

/-! ### The rows of a read -/

/-- A property of every row of the read map holds of the read of an address. -/
theorem State.memRead_cases {P : (State → Byte × State) → Prop} (a : Addr)
    (ram : a < 0x2000#16 → P fun s => (s.ram.read (ramIndex a), s))
    (ppu : ¬ a < 0x2000#16 → a < 0x4000#16 →
      P fun s => (s.ppuRegValue (a.setWidth 3), s.ppuRegReadEffect (a.setWidth 3)))
    (undriven : P State.draw)
    (status : P State.apuStatusRead)
    (pad : ∀ second, P fun s => s.padRead second)
    (expansion : P fun s => s.hookedRead a s.draw)
    (prgRam : ¬ a < 0x6000#16 → a < 0x8000#16 → P fun s => s.hookedRead a (s.prgRam.read (prgRamIndex a), s))
    (prgRom : ¬ a < 0x8000#16 → P fun s => s.prgRead a) : P fun s => s.memRead a := by
  by_cases h1 : a < 0x2000#16
  · simpa only [State.memRead, if_pos h1] using ram h1
  by_cases h2 : a < 0x4000#16
  · simpa only [State.memRead, if_neg h1, if_pos h2] using ppu h1 h2
  by_cases h3 : a < 0x4015#16
  · simpa only [State.memRead, if_neg h1, if_neg h2, if_pos h3] using undriven
  by_cases h4 : a = 0x4015#16
  · simpa only [State.memRead, if_neg h1, if_neg h2, if_neg h3, if_pos h4] using status
  by_cases h5 : a = 0x4016#16
  · simpa only [State.memRead, if_neg h1, if_neg h2, if_neg h3, if_neg h4, if_pos h5] using pad false
  by_cases h6 : a = 0x4017#16
  · simpa only [State.memRead, if_neg h1, if_neg h2, if_neg h3, if_neg h4, if_neg h5, if_pos h6] using pad true
  by_cases h7 : a < 0x4020#16
  · simpa only [State.memRead, if_neg h1, if_neg h2, if_neg h3, if_neg h4, if_neg h5, if_neg h6, if_pos h7]
      using undriven
  by_cases h8 : a < 0x6000#16
  · simpa only [State.memRead, if_neg h1, if_neg h2, if_neg h3, if_neg h4, if_neg h5, if_neg h6, if_neg h7,
      if_pos h8] using expansion
  by_cases h9 : a < 0x8000#16
  · simpa only [State.memRead, if_neg h1, if_neg h2, if_neg h3, if_neg h4, if_neg h5, if_neg h6, if_neg h7,
      if_neg h8, if_pos h9] using prgRam h8 h9
  · simpa only [State.memRead, if_neg h1, if_neg h2, if_neg h3, if_neg h4, if_neg h5, if_neg h6, if_neg h7,
      if_neg h8, if_neg h9] using prgRom h9

/-! ### The processor across an access -/

/-- The processor's part of a machine put over another's memories and devices. -/
def State.withCpu (s c : State) : State :=
  { s with
    a := c.a, x := c.x, y := c.y, sp := c.sp, p := c.p, pc := c.pc, cycles := c.cycles
    nmiPending := c.nmiPending, irqLine := c.irqLine }

/-- A read sees and changes nothing of the processor. -/
theorem State.memRead_withCpu (s c : State) (a : Addr) :
    (s.withCpu c).memRead a = ((s.memRead a).1, (s.memRead a).2.withCpu c) := by
  revert s
  refine State.memRead_cases (P := fun f => ∀ s : State, f (s.withCpu c) = ((f s).1, (f s).2.withCpu c)) a
    ?_ ?_ ?_ ?_ ?_ ?_ ?_ ?_
  · intro _ s; rfl
  · intro _ _ s
    simp only [State.ppuRegReadEffect]
    refine Prod.ext rfl ?_
    simp only
    split_ifs <;> rfl
  · intro s; rfl
  · intro s; rfl
  · intro _ s; rfl
  · intro s
    simp only [State.hookedRead]
    rw [show (s.withCpu c).cart = s.cart from rfl]
    cases s.cart.bind (·.readRegister a) <;> rfl
  · intro _ _ s
    simp only [State.hookedRead]
    rw [show (s.withCpu c).cart = s.cart from rfl]
    cases s.cart.bind (·.readRegister a) <;> rfl
  · intro _ s
    simp only [State.prgRead]
    rw [show (s.withCpu c).cart = s.cart from rfl]
    cases s.cart.bind (·.mapCpuRead a) <;> cases s.cart <;> rfl

@[simp] theorem State.withCpu_a (s c : State) : (s.withCpu c).a = c.a := rfl
@[simp] theorem State.withCpu_x (s c : State) : (s.withCpu c).x = c.x := rfl
@[simp] theorem State.withCpu_y (s c : State) : (s.withCpu c).y = c.y := rfl
@[simp] theorem State.withCpu_sp (s c : State) : (s.withCpu c).sp = c.sp := rfl
@[simp] theorem State.withCpu_p (s c : State) : (s.withCpu c).p = c.p := rfl
@[simp] theorem State.withCpu_pc (s c : State) : (s.withCpu c).pc = c.pc := rfl
@[simp] theorem State.withCpu_cycles (s c : State) : (s.withCpu c).cycles = c.cycles := rfl
@[simp] theorem State.withCpu_nmiPending (s c : State) : (s.withCpu c).nmiPending = c.nmiPending := rfl
@[simp] theorem State.withCpu_irqLine (s c : State) : (s.withCpu c).irqLine = c.irqLine := rfl
@[simp] theorem State.withCpu_ram (s c : State) : (s.withCpu c).ram = s.ram := rfl
@[simp] theorem State.withCpu_prgRam (s c : State) : (s.withCpu c).prgRam = s.prgRam := rfl
@[simp] theorem State.withCpu_ppu (s c : State) : (s.withCpu c).ppu = s.ppu := rfl
@[simp] theorem State.withCpu_apu (s c : State) : (s.withCpu c).apu = s.apu := rfl
@[simp] theorem State.withCpu_cart (s c : State) : (s.withCpu c).cart = s.cart := rfl
@[simp] theorem State.withCpu_pads (s c : State) : (s.withCpu c).pads = s.pads := rfl
@[simp] theorem State.withCpu_draws (s c : State) : (s.withCpu c).draws = s.draws := rfl
@[simp] theorem State.withCpu_self (s : State) : s.withCpu s = s := rfl
@[simp] theorem State.withCpu_withCpu (s c d : State) : (s.withCpu c).withCpu d = s.withCpu d := rfl

theorem State.memRead_state (s : State) (a : Addr) : (s.memRead a).2 = (s.memRead a).2.withCpu s :=
  congrArg Prod.snd (s.memRead_withCpu s a)

@[simp] theorem State.memRead_a (s : State) (a : Addr) : (s.memRead a).2.a = s.a := by
  rw [State.memRead_state]; rfl
@[simp] theorem State.memRead_x (s : State) (a : Addr) : (s.memRead a).2.x = s.x := by
  rw [State.memRead_state]; rfl
@[simp] theorem State.memRead_y (s : State) (a : Addr) : (s.memRead a).2.y = s.y := by
  rw [State.memRead_state]; rfl
@[simp] theorem State.memRead_sp (s : State) (a : Addr) : (s.memRead a).2.sp = s.sp := by
  rw [State.memRead_state]; rfl
@[simp] theorem State.memRead_p (s : State) (a : Addr) : (s.memRead a).2.p = s.p := by
  rw [State.memRead_state]; rfl
@[simp] theorem State.memRead_pc (s : State) (a : Addr) : (s.memRead a).2.pc = s.pc := by
  rw [State.memRead_state]; rfl
@[simp] theorem State.memRead_cycles (s : State) (a : Addr) : (s.memRead a).2.cycles = s.cycles := by
  rw [State.memRead_state]; rfl
@[simp] theorem State.memRead_nmiPending (s : State) (a : Addr) : (s.memRead a).2.nmiPending = s.nmiPending := by
  rw [State.memRead_state]; rfl
@[simp] theorem State.memRead_irqLine (s : State) (a : Addr) : (s.memRead a).2.irqLine = s.irqLine := by
  rw [State.memRead_state]; rfl

@[simp] theorem State.memRead_ram (s : State) (a : Addr) : (s.memRead a).2.ram = s.ram := by
  revert s
  refine State.memRead_cases (P := fun f => ∀ s : State, (f s).2.ram = s.ram) a ?_ ?_ ?_ ?_ ?_ ?_ ?_ ?_
  · intro _ s; rfl
  · intro _ _ s
    simp only [State.ppuRegReadEffect]
    split_ifs <;> rfl
  · intro s; rfl
  · intro s; rfl
  · intro _ s; rfl
  · intro s
    simp only [State.hookedRead]
    cases s.cart.bind (·.readRegister a) <;> rfl
  · intro _ _ s
    simp only [State.hookedRead]
    cases s.cart.bind (·.readRegister a) <;> rfl
  · intro _ s
    simp only [State.prgRead]
    cases s.cart.bind (·.mapCpuRead a) <;> cases s.cart <;> rfl

@[simp] theorem State.memRead_prgRam (s : State) (a : Addr) : (s.memRead a).2.prgRam = s.prgRam := by
  revert s
  refine State.memRead_cases (P := fun f => ∀ s : State, (f s).2.prgRam = s.prgRam) a ?_ ?_ ?_ ?_ ?_ ?_ ?_ ?_
  · intro _ s; rfl
  · intro _ _ s
    simp only [State.ppuRegReadEffect]
    split_ifs <;> rfl
  · intro s; rfl
  · intro s; rfl
  · intro _ s; rfl
  · intro s
    simp only [State.hookedRead]
    cases s.cart.bind (·.readRegister a) <;> rfl
  · intro _ _ s
    simp only [State.hookedRead]
    cases s.cart.bind (·.readRegister a) <;> rfl
  · intro _ s
    simp only [State.prgRead]
    cases s.cart.bind (·.mapCpuRead a) <;> cases s.cart <;> rfl

/-! ### Words and their bytes -/

@[simp] theorem wordOf_toNat (lo hi : Byte) : (wordOf lo hi).toNat = 256 * hi.toNat + lo.toNat := by
  show (hi ++ lo : BitVec (8 + 8)).toNat = _
  rw [BitVec.toNat_append, Nat.shiftLeft_eq, Nat.mul_comm, ← Nat.two_pow_add_eq_or_of_lt lo.isLt]

@[simp] theorem loByte_toNat (w : Addr) : (loByte w).toNat = w.toNat % 256 := by
  simp [loByte]

@[simp] theorem hiByte_toNat (w : Addr) : (hiByte w).toNat = w.toNat / 256 := by
  have := w.isLt
  simp only [hiByte, BitVec.extractLsb'_toNat, Nat.shiftRight_eq_div_pow]
  omega

@[simp] theorem wordOf_bytes (w : Addr) : wordOf (loByte w) (hiByte w) = w := by
  apply BitVec.eq_of_toNat_eq
  simp only [wordOf_toNat, loByte_toNat, hiByte_toNat]
  omega

@[simp] theorem loByte_wordOf (lo hi : Byte) : loByte (wordOf lo hi) = lo := by
  have := lo.isLt
  apply BitVec.eq_of_toNat_eq
  simp only [wordOf_toNat, loByte_toNat]
  omega

@[simp] theorem hiByte_wordOf (lo hi : Byte) : hiByte (wordOf lo hi) = hi := by
  have := lo.isLt
  apply BitVec.eq_of_toNat_eq
  simp only [wordOf_toNat, hiByte_toNat]
  omega

/-! ### Work RAM -/

theorem State.memRead_workRam (s : State) {a : Addr} (h : a < 0x2000#16) :
    s.memRead a = (s.ram.read (ramIndex a), s) := by
  simp only [State.memRead, if_pos h]

theorem State.memWrite_workRam (s : State) {a : Addr} (h : a < 0x2000#16) (v : Byte) :
    s.memWrite a v = { s with ram := s.ram.write (ramIndex a) v } := by
  simp only [State.memWrite, if_pos h]

theorem zeroPage_lt (b : Byte) : b.setWidth 16 < 0x2000#16 := by
  simp only [BitVec.lt_def, BitVec.toNat_setWidth]
  have := b.isLt
  norm_num
  omega

@[simp] theorem ramIndex_zeroPage (b : Byte) : ramIndex (b.setWidth 16) = b.toNat := by
  have := b.isLt
  simp only [ramIndex, BitVec.toNat_setWidth]
  omega

@[simp] theorem State.memRead_zeroPage (s : State) (b : Byte) :
    s.memRead (b.setWidth 16) = (s.ram.read b.toNat, s) := by
  rw [State.memRead_workRam s (zeroPage_lt b), ramIndex_zeroPage]

theorem stackAddr_toNat (s : State) : s.stackAddr.toNat = 256 + s.sp.toNat := by
  rw [State.stackAddr, wordOf_toNat]
  rfl

theorem stackAddr_lt (s : State) : s.stackAddr < 0x2000#16 := by
  have := s.sp.isLt
  rw [BitVec.lt_def, stackAddr_toNat]
  norm_num
  omega

@[simp] theorem ramIndex_stackAddr (s : State) : ramIndex s.stackAddr = 256 + s.sp.toNat := by
  have := s.sp.isLt
  simp only [ramIndex, stackAddr_toNat]
  omega

/-- A push writes work RAM and SP, nothing else (20 R84). -/
theorem State.push_eq (s : State) (v : Byte) :
    s.push v = { s with ram := s.ram.write (256 + s.sp.toNat) v, sp := s.sp - 1 } := by
  rw [State.push, State.memWrite_workRam _ (stackAddr_lt s), ramIndex_stackAddr]

/-- A pull reads work RAM and writes SP, nothing else (20 R84). -/
theorem State.pull_eq (s : State) :
    s.pull = (s.ram.read (256 + (s.sp + 1).toNat), { s with sp := s.sp + 1 }) := by
  rw [State.pull, State.memRead_workRam _ (stackAddr_lt _), ramIndex_stackAddr]

theorem State.push16_eq (s : State) (w : Addr) :
    s.push16 w = { s with
      ram := (s.ram.write (256 + s.sp.toNat) (hiByte w)).write (256 + (s.sp - 1).toNat) (loByte w)
      sp := s.sp - 1 - 1 } := by
  simp only [State.push16, State.push_eq]

theorem State.pull16_eq (s : State) :
    s.pull16 = (wordOf (s.ram.read (256 + (s.sp + 1).toNat)) (s.ram.read (256 + (s.sp + 1 + 1).toNat)),
      { s with sp := s.sp + 1 + 1 }) := by
  simp only [State.pull16, State.pull_eq]

/-- The return from an interrupt, in terms of work RAM (60 R413). -/
theorem State.returnFromInterrupt_eq (s : State) :
    s.returnFromInterrupt = { s with
      p := Flags.ofByte (s.ram.read (256 + (s.sp + 1).toNat))
      sp := s.sp + 1 + 1 + 1
      pc := wordOf (s.ram.read (256 + (s.sp + 1 + 1).toNat)) (s.ram.read (256 + (s.sp + 1 + 1 + 1).toNat)) } := by
  simp only [State.returnFromInterrupt, State.pull_eq, State.pull16_eq, State.jump]

/-! ### The rows of a write -/

/-- A property of every row of the write map holds of the write to an address. -/
theorem State.memWrite_cases {P : (State → State) → Prop} (a : Addr) (v : Byte)
    (ram : a < 0x2000#16 → P fun s => { s with ram := s.ram.write (ramIndex a) v })
    (ppu : ¬ a < 0x2000#16 → a < 0x4000#16 → P fun s => s.ppuRegWrite (a.setWidth 3) v)
    (dma : a = 0x4014#16 → P fun s => s.oamDma v)
    (strobe : a = 0x4016#16 → P fun s => { s with pads := s.pads.strobeWrite v })
    (apu : a ≠ 0x4014#16 → P fun s => { s with apu := s.apu.regWrite a v })
    (nothing : a ≠ 0x4014#16 → P fun s => s)
    (expansion : a ≠ 0x4014#16 → P fun s => s.hookedWrite a v s)
    (prgRam : ¬ a < 0x6000#16 → a < 0x8000#16 →
      P fun s => s.hookedWrite a v { s with prgRam := s.prgRam.write (prgRamIndex a) v })
    (prgRom : ¬ a < 0x8000#16 → P fun s => { s with cart := s.cart.map (·.mapCpuWrite a v) }) :
    P fun s => s.memWrite a v := by
  by_cases h1 : a < 0x2000#16
  · simpa only [State.memWrite, if_pos h1] using ram h1
  by_cases h2 : a < 0x4000#16
  · simpa only [State.memWrite, if_neg h1, if_pos h2] using ppu h1 h2
  by_cases h3 : a = 0x4014#16
  · simpa only [State.memWrite, if_neg h1, if_neg h2, if_pos h3] using dma h3
  by_cases h4 : a = 0x4016#16
  · simpa only [State.memWrite, if_neg h1, if_neg h2, if_neg h3, if_pos h4] using strobe h4
  by_cases h5 : a < 0x4018#16
  · simpa only [State.memWrite, if_neg h1, if_neg h2, if_neg h3, if_neg h4, if_pos h5] using apu h3
  by_cases h6 : a < 0x4020#16
  · simpa only [State.memWrite, if_neg h1, if_neg h2, if_neg h3, if_neg h4, if_neg h5, if_pos h6]
      using nothing h3
  by_cases h7 : a < 0x6000#16
  · simpa only [State.memWrite, if_neg h1, if_neg h2, if_neg h3, if_neg h4, if_neg h5, if_neg h6, if_pos h7]
      using expansion h3
  by_cases h8 : a < 0x8000#16
  · simpa only [State.memWrite, if_neg h1, if_neg h2, if_neg h3, if_neg h4, if_neg h5, if_neg h6, if_neg h7,
      if_pos h8] using prgRam h7 h8
  · simpa only [State.memWrite, if_neg h1, if_neg h2, if_neg h3, if_neg h4, if_neg h5, if_neg h6, if_neg h7,
      if_neg h8] using prgRom h8

/-- Under `NmiOnLateEnable = false` no $2000 write requests an NMI (61 R514). -/
@[simp] theorem Ppu.lateNmi_eq (p : Ppu) (v : Byte) : p.lateNmi v = false := rfl

theorem State.ppuWrite_withCpu (s c : State) (a : BitVec 14) (v : Byte) :
    (s.withCpu c).ppuWrite a v = (s.ppuWrite a v).withCpu c := by
  simp only [State.ppuWrite, State.withCpu_cart]
  split_ifs
  · cases s.cart with
    | none => rfl
    | some k =>
      simp only
      cases k.mapPpuWrite a with
      | none => rfl
      | some i => simp only; split_ifs <;> rfl
  · cases s.cart <;> rfl
  · rfl

theorem State.ppuRegWrite_withCpu (s c : State) (r : BitVec 3) (v : Byte) :
    (s.withCpu c).ppuRegWrite r v = (s.ppuRegWrite r v).withCpu c := by
  simp only [State.ppuRegWrite, Ppu.lateNmi_eq, Bool.or_false]
  split_ifs <;> try rfl
  simp only [State.writeData]
  rw [show ({ s.withCpu c with ppu := (s.withCpu c).ppu.refreshAll v } : State)
    = ({ s with ppu := s.ppu.refreshAll v } : State).withCpu c from rfl, State.ppuWrite_withCpu]
  rfl

theorem State.peek_withCpu (s c : State) (a : Addr) :
    (s.withCpu c).peek a = ((s.peek a).1, (s.peek a).2.withCpu c) := by
  simp only [State.peek, State.memRead_withCpu]
  rfl

theorem State.dmaCopy_withCpu (page : Byte) (n i : Nat) (s c : State) :
    (s.withCpu c).dmaCopy page n i = (s.dmaCopy page n i).withCpu c := by
  induction n generalizing i s with
  | zero => rfl
  | succ n ih =>
    simp only [State.dmaCopy, State.peek_withCpu]
    exact ih (i + 1) ((s.peek (wordOf (BitVec.ofNat 8 i) page)).2.oamStore i _)

/-- A write other than to $4014 sees and changes nothing of the processor. -/
theorem State.memWrite_withCpu (s c : State) {a : Addr} (ha : a ≠ 0x4014#16) (v : Byte) :
    (s.withCpu c).memWrite a v = (s.memWrite a v).withCpu c := by
  revert s
  refine State.memWrite_cases (P := fun f => ∀ s : State, f (s.withCpu c) = (f s).withCpu c) a v
    ?_ ?_ ?_ ?_ ?_ ?_ ?_ ?_ ?_
  · intro _ s; rfl
  · intro _ _ s; exact State.ppuRegWrite_withCpu s c _ v
  · intro h; exact absurd h ha
  · intro _ s; rfl
  · intro _ s; rfl
  · intro _ s; rfl
  · intro _ s
    simp only [State.hookedWrite, State.withCpu_cart]
    cases s.cart.bind (·.writeRegister a v) <;> rfl
  · intro _ _ s
    simp only [State.hookedWrite, State.withCpu_cart]
    cases s.cart.bind (·.writeRegister a v) <;> rfl
  · intro _ s; rfl

theorem State.memWrite_state (s : State) {a : Addr} (ha : a ≠ 0x4014#16) (v : Byte) :
    s.memWrite a v = (s.memWrite a v).withCpu s := s.memWrite_withCpu s ha v

theorem State.dmaCopy_state (page : Byte) (n i : Nat) (s : State) :
    s.dmaCopy page n i = (s.dmaCopy page n i).withCpu s := State.dmaCopy_withCpu page n i s s

/-- A write to $4014 is OAM DMA (20 R87). -/
theorem State.memWrite_dma (s : State) (v : Byte) : s.memWrite 0x4014#16 v = s.oamDma v := by
  simp only [State.memWrite]
  rfl

@[simp] theorem State.dmaCopy_a (page : Byte) (n i : Nat) (s : State) :
    (s.dmaCopy page n i).a = s.a := by
  rw [State.dmaCopy_state, State.withCpu_a]

@[simp] theorem State.dmaCopy_x (page : Byte) (n i : Nat) (s : State) :
    (s.dmaCopy page n i).x = s.x := by
  rw [State.dmaCopy_state, State.withCpu_x]

@[simp] theorem State.dmaCopy_y (page : Byte) (n i : Nat) (s : State) :
    (s.dmaCopy page n i).y = s.y := by
  rw [State.dmaCopy_state, State.withCpu_y]

@[simp] theorem State.dmaCopy_sp (page : Byte) (n i : Nat) (s : State) :
    (s.dmaCopy page n i).sp = s.sp := by
  rw [State.dmaCopy_state, State.withCpu_sp]

@[simp] theorem State.dmaCopy_p (page : Byte) (n i : Nat) (s : State) :
    (s.dmaCopy page n i).p = s.p := by
  rw [State.dmaCopy_state, State.withCpu_p]

@[simp] theorem State.dmaCopy_pc (page : Byte) (n i : Nat) (s : State) :
    (s.dmaCopy page n i).pc = s.pc := by
  rw [State.dmaCopy_state, State.withCpu_pc]

@[simp] theorem State.dmaCopy_cycles (page : Byte) (n i : Nat) (s : State) :
    (s.dmaCopy page n i).cycles = s.cycles := by
  rw [State.dmaCopy_state, State.withCpu_cycles]

@[simp] theorem State.dmaCopy_nmiPending (page : Byte) (n i : Nat) (s : State) :
    (s.dmaCopy page n i).nmiPending = s.nmiPending := by
  rw [State.dmaCopy_state, State.withCpu_nmiPending]

@[simp] theorem State.dmaCopy_irqLine (page : Byte) (n i : Nat) (s : State) :
    (s.dmaCopy page n i).irqLine = s.irqLine := by
  rw [State.dmaCopy_state, State.withCpu_irqLine]

theorem State.oamDma_eq (s : State) (page : Byte) :
    s.oamDma page = { s.dmaCopy page 256 0 with cycles := s.cycles + 513 + s.cycles % 2 } := by
  simp only [State.oamDma, State.dmaCopy_cycles]

@[simp] theorem State.memWrite_a (s : State) (a : Addr) (v : Byte) : (s.memWrite a v).a = s.a := by
  by_cases h : a = 0x4014#16
  · subst h; simp only [State.memWrite_dma, State.oamDma_eq, State.dmaCopy_a]
  · rw [State.memWrite_state s h]; rfl

@[simp] theorem State.memWrite_x (s : State) (a : Addr) (v : Byte) : (s.memWrite a v).x = s.x := by
  by_cases h : a = 0x4014#16
  · subst h; simp only [State.memWrite_dma, State.oamDma_eq, State.dmaCopy_x]
  · rw [State.memWrite_state s h]; rfl

@[simp] theorem State.memWrite_y (s : State) (a : Addr) (v : Byte) : (s.memWrite a v).y = s.y := by
  by_cases h : a = 0x4014#16
  · subst h; simp only [State.memWrite_dma, State.oamDma_eq, State.dmaCopy_y]
  · rw [State.memWrite_state s h]; rfl

@[simp] theorem State.memWrite_sp (s : State) (a : Addr) (v : Byte) : (s.memWrite a v).sp = s.sp := by
  by_cases h : a = 0x4014#16
  · subst h; simp only [State.memWrite_dma, State.oamDma_eq, State.dmaCopy_sp]
  · rw [State.memWrite_state s h]; rfl

@[simp] theorem State.memWrite_p (s : State) (a : Addr) (v : Byte) : (s.memWrite a v).p = s.p := by
  by_cases h : a = 0x4014#16
  · subst h; simp only [State.memWrite_dma, State.oamDma_eq, State.dmaCopy_p]
  · rw [State.memWrite_state s h]; rfl

@[simp] theorem State.memWrite_pc (s : State) (a : Addr) (v : Byte) : (s.memWrite a v).pc = s.pc := by
  by_cases h : a = 0x4014#16
  · subst h; simp only [State.memWrite_dma, State.oamDma_eq, State.dmaCopy_pc]
  · rw [State.memWrite_state s h]; rfl

@[simp] theorem State.memWrite_nmiPending (s : State) (a : Addr) (v : Byte) : (s.memWrite a v).nmiPending = s.nmiPending := by
  by_cases h : a = 0x4014#16
  · subst h; simp only [State.memWrite_dma, State.oamDma_eq, State.dmaCopy_nmiPending]
  · rw [State.memWrite_state s h]; rfl

@[simp] theorem State.memWrite_irqLine (s : State) (a : Addr) (v : Byte) : (s.memWrite a v).irqLine = s.irqLine := by
  by_cases h : a = 0x4014#16
  · subst h; simp only [State.memWrite_dma, State.oamDma_eq, State.dmaCopy_irqLine]
  · rw [State.memWrite_state s h]; rfl

theorem State.memWrite_cycles (s : State) {a : Addr} (h : a ≠ 0x4014#16) (v : Byte) :
    (s.memWrite a v).cycles = s.cycles := by
  rw [State.memWrite_state s h]; rfl

theorem State.dmaCopy_frame (page : Byte) (n i : Nat) (s : State) :
    ∃ oam draws, s.dmaCopy page n i = { s with ppu := { s.ppu with oam := oam }, draws := draws } := by
  induction n generalizing i s with
  | zero => exact ⟨_, _, rfl⟩
  | succ n ih =>
    obtain ⟨o, d, h⟩ := ih (i + 1) ((s.peek (wordOf (BitVec.ofNat 8 i) page)).2.oamStore i
      (s.peek (wordOf (BitVec.ofNat 8 i) page)).1)
    exact ⟨o, d, h⟩

/-- A write outside work RAM leaves it alone. -/
theorem State.memWrite_ram (s : State) {a : Addr} (h : ¬ a < 0x2000#16) (v : Byte) :
    (s.memWrite a v).ram = s.ram := by
  revert s
  refine State.memWrite_cases (P := fun f => ∀ s : State, (f s).ram = s.ram) a v ?_ ?_ ?_ ?_ ?_ ?_ ?_ ?_ ?_
  · intro h'; exact absurd h' h
  · intro _ _ s
    simp only [State.ppuRegWrite]
    split_ifs <;> try rfl
    simp only [State.writeData, State.ppuWrite]
    split_ifs
    · cases s.cart with
      | none => rfl
      | some k =>
        simp only
        cases k.mapPpuWrite _ with
        | none => rfl
        | some i => simp only; split_ifs <;> rfl
    · cases s.cart <;> rfl
    · rfl
  · intro _ s
    obtain ⟨o, d, e⟩ := State.dmaCopy_frame v 256 0 s
    simp only [State.oamDma_eq, e]
  · intro _ s; rfl
  · intro _ s; rfl
  · intro _ s; rfl
  · intro _ s
    simp only [State.hookedWrite]
    cases s.cart.bind (·.writeRegister a v) <;> rfl
  · intro _ _ s
    simp only [State.hookedWrite]
    cases s.cart.bind (·.writeRegister a v) <;> rfl
  · intro _ s; rfl

/-- A write outside $6000–$7FFF leaves PRG-RAM alone. -/
theorem State.memWrite_prgRam (s : State) {a : Addr} (h : a < 0x6000#16 ∨ ¬ a < 0x8000#16) (v : Byte) :
    (s.memWrite a v).prgRam = s.prgRam := by
  revert s
  refine State.memWrite_cases (P := fun f => ∀ s : State, (f s).prgRam = s.prgRam) a v ?_ ?_ ?_ ?_ ?_ ?_ ?_ ?_ ?_
  · intro _ s; rfl
  · intro _ _ s
    simp only [State.ppuRegWrite]
    split_ifs <;> try rfl
    simp only [State.writeData, State.ppuWrite]
    split_ifs
    · cases s.cart with
      | none => rfl
      | some k =>
        simp only
        cases k.mapPpuWrite _ with
        | none => rfl
        | some i => simp only; split_ifs <;> rfl
    · cases s.cart <;> rfl
    · rfl
  · intro _ s
    obtain ⟨o, d, e⟩ := State.dmaCopy_frame v 256 0 s
    simp only [State.oamDma_eq, e]
  · intro _ s; rfl
  · intro _ s; rfl
  · intro _ s; rfl
  · intro _ s
    simp only [State.hookedWrite]
    cases s.cart.bind (·.writeRegister a v) <;> rfl
  · intro h1 h2
    rcases h with h | h
    · exact absurd h h1
    · exact absurd h2 h
  · intro _ s; rfl

/-- A write of a channel register $4000–$4013 is the audio chip's alone (20 R78). -/
theorem State.memWrite_channel (s : State) {a : Addr} (lo : 0x4000#16 ≤ a) (hi : a < 0x4014#16) (v : Byte) :
    s.memWrite a v = { s with apu := s.apu.regWrite a v } := by
  unfold State.memWrite
  rw [if_neg (by bv_omega), if_neg (by bv_omega), if_neg (by bv_omega), if_neg (by bv_omega),
    if_pos (by bv_omega)]

end Sys2Proof.Machine
end

