-- ==== Sys2Proof/Laws/Decode.lean ====
section
/-! SUPPORT. What decoding answers for each format, and what a cell of the opcode map is. -/

namespace Sys2Proof

/-- A cell of format F1 decodes from its one byte. -/
theorem decode_one {op : Byte} {i : Instr} (h : rowOf op = one i) (rest : List Byte) :
    decode (op :: rest) = .ok (i, rest) := by
  simp [decode, opLength, decodeOp, h, one]

/-- A cell of format F2 decodes from two bytes. -/
theorem decode_byteOp {op : Byte} {f : Byte → Instr} (h : rowOf op = byteOp f) (b : Byte)
    (rest : List Byte) : decode (op :: b :: rest) = .ok (f b, rest) := by
  simp [decode, opLength, decodeOp, h, byteOp]

/-- A cell of format F3 decodes from three bytes, the address low byte first. -/
theorem decode_wordOp {op : Byte} {f : Addr → Instr} (h : rowOf op = wordOp f) (a : Addr)
    (rest : List Byte) : decode (op :: loByte a :: hiByte a :: rest) = .ok (f a, rest) := by
  simp [decode, opLength, decodeOp, h, wordOp, Machine.wordOf_bytes]

/-- Every opcode has a length of one to three bytes. -/
theorem opLength_range : ∀ op : Byte, 1 ≤ opLength op ∧ opLength op ≤ 3 := by decide +kernel

/-- Decoding by the length alone. -/
theorem decode_cons (op : Byte) (rest : List Byte) :
    (opLength op = 1 ∧ decode (op :: rest) = .ok (decodeOp op 0 0, rest)) ∨
    (opLength op = 2 ∧ decode (op :: rest) = match rest with
      | [] => .error .missingOperand
      | b1 :: tail => .ok (decodeOp op b1 0, tail)) ∨
    (opLength op = 3 ∧ decode (op :: rest) = match rest with
      | b1 :: b2 :: tail => .ok (decodeOp op b1 b2, tail)
      | _ => .error .missingOperand) := by
  have h := opLength_range op
  rcases (by omega : opLength op = 1 ∨ opLength op = 2 ∨ opLength op = 3) with e | e | e
  · exact .inl ⟨e, by simp [decode, e]⟩
  · exact .inr (.inl ⟨e, by cases rest <;> simp [decode, e]⟩)
  · refine .inr (.inr ⟨e, ?_⟩)
    rcases rest with _ | ⟨b1, _ | ⟨b2, tail⟩⟩ <;> simp [decode, e]

/-- What is decoded from an opcode byte is well-formed, has the opcode's length, and is encoded by that
byte and the operand bytes it looked at. -/
theorem decodeOp_spec (op b1 b2 : Byte) :
    (decodeOp op b1 b2).wellFormed = true ∧
    encode (decodeOp op b1 b2)
      = op :: (if opLength op = 1 then [] else if opLength op = 2 then [b1] else [b1, b2]) ∧
    (decodeOp op b1 b2).length = opLength op := by
  have key : ∀ n : Nat, n < 256 → let op := BitVec.ofNat 8 n
      (decodeOp op b1 b2).wellFormed = true ∧
      encode (decodeOp op b1 b2)
        = op :: (if opLength op = 1 then [] else if opLength op = 2 then [b1] else [b1, b2]) ∧
      (decodeOp op b1 b2).length = opLength op := by
    intro n hn
    interval_cases n <;> first
      | exact ⟨rfl, rfl, rfl⟩
      | (refine ⟨rfl, ?_, rfl⟩
         show [_, loByte (wordOf b1 b2), hiByte (wordOf b1 b2)] = [_, b1, b2]
         rw [Machine.loByte_wordOf, Machine.hiByte_wordOf]
         rfl)
  simpa using key op.toNat op.isLt

end Sys2Proof
end

