-- ==== Sys2Proof/Laws/Operands.lean ====
section
/-! SUPPORT. What locating, reading, storing and modifying an operand can do. -/

namespace Sys2Proof.Machine

theorem State.eq_withCpu {t s : State} (a : t.a = s.a) (x : t.x = s.x) (y : t.y = s.y) (sp : t.sp = s.sp)
    (p : t.p = s.p) (pc : t.pc = s.pc) (cycles : t.cycles = s.cycles)
    (nmi : t.nmiPending = s.nmiPending) (irq : t.irqLine = s.irqLine) : t = t.withCpu s := by
  cases t
  simp_all [State.withCpu]

/-- Locating an operand changes nothing of the processor. -/
theorem State.locate_state (s : State) (m : AddrMode) :
    (s.locate m).state = (s.locate m).state.withCpu s := by
  cases m <;> apply State.eq_withCpu <;> simp [State.locate]

@[simp] theorem State.locate_a (s : State) (m : AddrMode) : (s.locate m).state.a = s.a := by
  rw [State.locate_state]; rfl

@[simp] theorem State.locate_x (s : State) (m : AddrMode) : (s.locate m).state.x = s.x := by
  rw [State.locate_state]; rfl

@[simp] theorem State.locate_y (s : State) (m : AddrMode) : (s.locate m).state.y = s.y := by
  rw [State.locate_state]; rfl

@[simp] theorem State.locate_sp (s : State) (m : AddrMode) : (s.locate m).state.sp = s.sp := by
  rw [State.locate_state]; rfl

@[simp] theorem State.locate_p (s : State) (m : AddrMode) : (s.locate m).state.p = s.p := by
  rw [State.locate_state]; rfl

@[simp] theorem State.locate_pc (s : State) (m : AddrMode) : (s.locate m).state.pc = s.pc := by
  rw [State.locate_state]; rfl

@[simp] theorem State.locate_cycles (s : State) (m : AddrMode) : (s.locate m).state.cycles = s.cycles := by
  rw [State.locate_state]; rfl

@[simp] theorem State.locate_nmiPending (s : State) (m : AddrMode) : (s.locate m).state.nmiPending = s.nmiPending := by
  rw [State.locate_state]; rfl

@[simp] theorem State.locate_irqLine (s : State) (m : AddrMode) : (s.locate m).state.irqLine = s.irqLine := by
  rw [State.locate_state]; rfl

@[simp] theorem State.locate_ram (s : State) (m : AddrMode) : (s.locate m).state.ram = s.ram := by
  cases m <;> simp [State.locate]

@[simp] theorem State.locate_prgRam (s : State) (m : AddrMode) : (s.locate m).state.prgRam = s.prgRam := by
  cases m <;> simp [State.locate]

/-- The cycle counter does not matter to an access: a read. -/
theorem State.memRead_charge (s : State) (n : Nat) (a : Addr) :
    (s.charge n).memRead a = ((s.memRead a).1, { (s.memRead a).2 with cycles := s.cycles + n }) := by
  rw [show s.charge n = s.withCpu (s.charge n) from rfl, State.memRead_withCpu, State.memRead_state]
  rfl

/-- The cycle counter does not matter to an access: a write other than to $4014. -/
theorem State.memWrite_charge (s : State) (n : Nat) {a : Addr} (h : a ≠ 0x4014#16) (v : Byte) :
    (s.charge n).memWrite a v = { s.memWrite a v with cycles := s.cycles + n } := by
  rw [show s.charge n = s.withCpu (s.charge n) from rfl, State.memWrite_withCpu _ _ h,
    State.memWrite_state s h]
  rfl

/-- OAM DMA after a charge: its length has the parity of the charged counter (20 R87). -/
theorem State.memWrite_charge_dma (s : State) (n : Nat) (v : Byte) :
    (s.charge n).memWrite 0x4014#16 v
      = { s.dmaCopy v 256 0 with cycles := s.cycles + n + 513 + (s.cycles + n) % 2 } := by
  rw [State.memWrite_dma, State.oamDma_eq, show s.charge n = s.withCpu (s.charge n) from rfl]
  generalize 256 = k
  rw [State.dmaCopy_withCpu, State.dmaCopy_state]
  rfl

/-- The operand an instruction reads, before any cycle is charged. -/
def State.operand (s : State) (m : AddrMode) : Byte × State :=
  match m with
  | .acc => (s.a, s)
  | .imm v => (v, s)
  | _ => (s.locate m).state.memRead (s.locate m).ea

theorem State.operand_mem (s : State) {m : AddrMode} (h1 : m ≠ .acc) (h2 : ∀ v, m ≠ .imm v) :
    s.operand m = (s.locate m).state.memRead (s.locate m).ea := by
  cases m <;> simp_all [State.operand]

@[simp] theorem State.operand_a (s : State) (m : AddrMode) : (s.operand m).2.a = s.a := by
  cases m <;> simp [State.operand]

@[simp] theorem State.operand_x (s : State) (m : AddrMode) : (s.operand m).2.x = s.x := by
  cases m <;> simp [State.operand]

@[simp] theorem State.operand_y (s : State) (m : AddrMode) : (s.operand m).2.y = s.y := by
  cases m <;> simp [State.operand]

@[simp] theorem State.operand_sp (s : State) (m : AddrMode) : (s.operand m).2.sp = s.sp := by
  cases m <;> simp [State.operand]

@[simp] theorem State.operand_p (s : State) (m : AddrMode) : (s.operand m).2.p = s.p := by
  cases m <;> simp [State.operand]

@[simp] theorem State.operand_pc (s : State) (m : AddrMode) : (s.operand m).2.pc = s.pc := by
  cases m <;> simp [State.operand]

@[simp] theorem State.operand_cycles (s : State) (m : AddrMode) : (s.operand m).2.cycles = s.cycles := by
  cases m <;> simp [State.operand]

@[simp] theorem State.operand_nmiPending (s : State) (m : AddrMode) : (s.operand m).2.nmiPending = s.nmiPending := by
  cases m <;> simp [State.operand]

@[simp] theorem State.operand_irqLine (s : State) (m : AddrMode) : (s.operand m).2.irqLine = s.irqLine := by
  cases m <;> simp [State.operand]

@[simp] theorem State.operand_ram (s : State) (m : AddrMode) : (s.operand m).2.ram = s.ram := by
  cases m <;> simp [State.operand]

@[simp] theorem State.operand_prgRam (s : State) (m : AddrMode) : (s.operand m).2.prgRam = s.prgRam := by
  cases m <;> simp [State.operand]

/-- Reading an operand: the byte, the device effects of the read, PC and the cycles. -/
theorem State.readOperand_eq (s : State) (m : AddrMode) :
    s.readOperand m = ((s.operand m).1, { (s.operand m).2 with
      pc := s.pc + BitVec.ofNat 16 m.size
      cycles := s.cycles + (readCycles m + (s.locate m).cross.toNat) }) := by
  have key : ∀ n, (((s.locate m).state.charge n).memRead (s.locate m).ea).2.advance m.size
      = { ((s.locate m).state.memRead (s.locate m).ea).2 with
          pc := s.pc + BitVec.ofNat 16 m.size, cycles := s.cycles + n } := by
    intro n
    simp only [State.memRead_charge, State.advance, State.memRead_pc, State.locate_pc, State.locate_cycles]
  have val : ∀ n, (((s.locate m).state.charge n).memRead (s.locate m).ea).1
      = ((s.locate m).state.memRead (s.locate m).ea).1 := by
    intro n; rw [State.memRead_charge]
  cases m
  case acc => rfl
  case imm => rfl
  all_goals exact Prod.ext (val _) (key _)

/-- Storing to an operand: the device effects of the write, PC and the cycles. -/
theorem State.storeOperand_eq (s : State) (m : AddrMode) (v : Byte) :
    s.storeOperand m v =
      if (s.locate m).ea = 0x4014#16 then
        { (s.locate m).state.dmaCopy v 256 0 with
          pc := s.pc + BitVec.ofNat 16 m.size
          cycles := s.cycles + storeCycles m + 513 + (s.cycles + storeCycles m) % 2 }
      else
        { (s.locate m).state.memWrite (s.locate m).ea v with
          pc := s.pc + BitVec.ofNat 16 m.size
          cycles := s.cycles + storeCycles m } := by
  simp only [State.storeOperand]
  split_ifs with h
  · rw [h, State.memWrite_charge_dma]
    simp only [State.advance, State.locate_cycles, State.dmaCopy_pc, State.locate_pc]
  · rw [State.memWrite_charge _ _ h]
    simp only [State.advance, State.locate_cycles, State.memWrite_pc, State.locate_pc]

/-- Modifying a memory operand: one read, one write, PC and the cycles. -/
theorem State.modifyOperand_eq (s : State) {m : AddrMode} (h1 : m ≠ .acc) (f : Byte → Byte) :
    s.modifyOperand m f =
      let r := (s.locate m).state.memRead (s.locate m).ea
      ⟨r.1, f r.1,
        if (s.locate m).ea = 0x4014#16 then
          { r.2.dmaCopy (f r.1) 256 0 with
            pc := s.pc + BitVec.ofNat 16 m.size
            cycles := s.cycles + modifyCycles m + 513 + (s.cycles + modifyCycles m) % 2 }
        else
          { r.2.memWrite (s.locate m).ea (f r.1) with
            pc := s.pc + BitVec.ofNat 16 m.size
            cycles := s.cycles + modifyCycles m }⟩ := by
  have e : s.modifyOperand m f =
      let r := ((s.locate m).state.charge (modifyCycles m)).memRead (s.locate m).ea
      ⟨r.1, f r.1, (r.2.memWrite (s.locate m).ea (f r.1)).advance m.size⟩ := by
    cases m <;> first | rfl | exact absurd rfl h1
  rw [e]
  simp only [State.memRead_charge]
  congr 1
  have hc : ({ ((s.locate m).state.memRead (s.locate m).ea).2 with
      cycles := (s.locate m).state.cycles + modifyCycles m } : State)
      = ((s.locate m).state.memRead (s.locate m).ea).2.charge (modifyCycles m) := by
    rw [State.charge, State.memRead_cycles]
  rw [hc]
  split_ifs with h
  · rw [h, State.memWrite_charge_dma]
    simp only [State.advance, State.dmaCopy_pc, State.memRead_pc, State.memRead_cycles, State.locate_pc,
      State.locate_cycles]
  · rw [State.memWrite_charge _ _ h]
    simp only [State.advance, State.memWrite_pc, State.memRead_pc, State.memRead_cycles, State.locate_pc,
      State.locate_cycles]

/-- Taking an interrupt: three bytes on the stack, I set, PC from the vector (60 R403). -/
theorem State.interrupt_eq (s : State) (ret vector : Addr) (b : Bool) :
    s.interrupt ret vector b =
      let t := { s with
        ram := ((s.ram.write (256 + s.sp.toNat) (hiByte ret)).write (256 + (s.sp - 1).toNat)
          (loByte ret)).write (256 + (s.sp - 1 - 1).toNat) (s.p.pushed b)
        sp := s.sp - 1 - 1 - 1
        p := { s.p with i := true } }
      { (t.read16 vector).2 with pc := (t.read16 vector).1 } := by
  simp only [State.interrupt, State.push16_eq, State.push_eq, State.jump]

@[simp] theorem State.read16_a (s : State) (a : Addr) : (s.read16 a).2.a = s.a := by
  simp [State.read16]

@[simp] theorem State.read16_x (s : State) (a : Addr) : (s.read16 a).2.x = s.x := by
  simp [State.read16]

@[simp] theorem State.read16_y (s : State) (a : Addr) : (s.read16 a).2.y = s.y := by
  simp [State.read16]

@[simp] theorem State.read16_sp (s : State) (a : Addr) : (s.read16 a).2.sp = s.sp := by
  simp [State.read16]

@[simp] theorem State.read16_p (s : State) (a : Addr) : (s.read16 a).2.p = s.p := by
  simp [State.read16]

@[simp] theorem State.read16_pc (s : State) (a : Addr) : (s.read16 a).2.pc = s.pc := by
  simp [State.read16]

@[simp] theorem State.read16_cycles (s : State) (a : Addr) : (s.read16 a).2.cycles = s.cycles := by
  simp [State.read16]

@[simp] theorem State.read16_nmiPending (s : State) (a : Addr) : (s.read16 a).2.nmiPending = s.nmiPending := by
  simp [State.read16]

@[simp] theorem State.read16_irqLine (s : State) (a : Addr) : (s.read16 a).2.irqLine = s.irqLine := by
  simp [State.read16]

@[simp] theorem State.read16_ram (s : State) (a : Addr) : (s.read16 a).2.ram = s.ram := by
  simp [State.read16]

@[simp] theorem State.read16_prgRam (s : State) (a : Addr) : (s.read16 a).2.prgRam = s.prgRam := by
  simp [State.read16]

/-- The address the high byte of a JMP pointer is read from: the pointer's page, the next offset (30 R139). -/
theorem pageWrap_toNat (p : Addr) :
    ((p &&& 0xFF00) ||| ((p + 1) &&& 0x00FF)).toNat = p.toNat / 256 * 256 + (p.toNat + 1) % 256 := by
  have hp := p.isLt
  have h1 : p.toNat &&& 65280 = p.toNat / 256 * 256 := by
    have : p.toNat &&& 65280 = ((p.toNat >>> 8) &&& 255) <<< 8 := by
      apply Nat.eq_of_testBit_eq
      intro i
      rw [Nat.testBit_and, Nat.testBit_shiftLeft, Nat.testBit_and, Nat.testBit_shiftRight,
        show (65280 : Nat) = (2 ^ 8 - 1) <<< 8 from rfl, Nat.testBit_shiftLeft, show (255 : Nat) = 2 ^ 8 - 1 from rfl]
      by_cases h : 8 ≤ i
      · simp [h]
      · simp [h]
    rw [this, Nat.shiftLeft_eq, show (255 : Nat) = 2 ^ 8 - 1 from rfl, Nat.and_two_pow_sub_one_eq_mod,
      Nat.shiftRight_eq_div_pow]
    omega
  have h2 : (p.toNat + 1) % 65536 &&& 255 = (p.toNat + 1) % 256 := by
    rw [show (255 : Nat) = 2 ^ 8 - 1 from rfl, Nat.and_two_pow_sub_one_eq_mod]
    omega
  rw [BitVec.toNat_or, BitVec.toNat_and, BitVec.toNat_and, BitVec.toNat_add]
  show (p.toNat &&& 65280) ||| ((p.toNat + 1) % 65536 &&& 255) = _
  rw [h1, h2, Nat.mul_comm, show (256 : Nat) = 2 ^ 8 from rfl, ← Nat.two_pow_add_eq_or_of_lt (Nat.mod_lt _ (by decide))]

end Sys2Proof.Machine
end

