-- ==== Sys2Proof/Laws/Ticks.lean ====
section
/-! SUPPORT. What a dot, an audio cycle, the device ticks and a step can do. -/

namespace Sys2Proof.Machine

/-! ### A dot -/

/-- The events of a coordinate are one of seven. -/
theorem State.dotEvents_cases {P : State → Prop} (s : State) (none : P s) (snap : P s.takeSnapshot)
    (zero : ∀ px, P (s.spriteZeroTest px)) (overflow : P { s with ppu := s.ppu.overflowTest })
    (clock : P s.scanlineClock) (enter : P s.enterVblank)
    (clear : P { s with ppu := s.ppu.preRenderClear }) : P s.dotEvents := by
  unfold State.dotEvents
  dsimp only
  repeat' split
  all_goals first | assumption | exact zero _

/-- A dot leaves the processor, its memories, the audio chip, the pads, and the video chip's registers,
memories and frame. -/
structure SameButDots (s t : State) : Prop where
  a : t.a = s.a
  x : t.x = s.x
  y : t.y = s.y
  sp : t.sp = s.sp
  p : t.p = s.p
  pc : t.pc = s.pc
  cycles : t.cycles = s.cycles
  ram : t.ram = s.ram
  prgRam : t.prgRam = s.prgRam
  apu : t.apu = s.apu
  pads : t.pads = s.pads
  irqLine : t.irqLine = s.irqLine
  ppu_ctrl : t.ppu.ctrl = s.ppu.ctrl
  ppu_mask : t.ppu.mask = s.ppu.mask
  ppu_oamAddr : t.ppu.oamAddr = s.ppu.oamAddr
  ppu_oam : t.ppu.oam = s.ppu.oam
  ppu_v : t.ppu.v = s.ppu.v
  ppu_t : t.ppu.t = s.ppu.t
  ppu_x : t.ppu.x = s.ppu.x
  ppu_w : t.ppu.w = s.ppu.w
  ppu_readBuffer : t.ppu.readBuffer = s.ppu.readBuffer
  ppu_palette : t.ppu.palette = s.ppu.palette
  ppu_ciram : t.ppu.ciram = s.ppu.ciram
  ppu_frame : t.ppu.frame = s.ppu.frame

theorem SameButDots.refl (s : State) : SameButDots s s := by constructor <;> rfl

theorem SameButDots.trans {s t u : State} (h : SameButDots s t) (k : SameButDots t u) :
    SameButDots s u := by
  constructor
  · exact k.a.trans h.a
  · exact k.x.trans h.x
  · exact k.y.trans h.y
  · exact k.sp.trans h.sp
  · exact k.p.trans h.p
  · exact k.pc.trans h.pc
  · exact k.cycles.trans h.cycles
  · exact k.ram.trans h.ram
  · exact k.prgRam.trans h.prgRam
  · exact k.apu.trans h.apu
  · exact k.pads.trans h.pads
  · exact k.irqLine.trans h.irqLine
  · exact k.ppu_ctrl.trans h.ppu_ctrl
  · exact k.ppu_mask.trans h.ppu_mask
  · exact k.ppu_oamAddr.trans h.ppu_oamAddr
  · exact k.ppu_oam.trans h.ppu_oam
  · exact k.ppu_v.trans h.ppu_v
  · exact k.ppu_t.trans h.ppu_t
  · exact k.ppu_x.trans h.ppu_x
  · exact k.ppu_w.trans h.ppu_w
  · exact k.ppu_readBuffer.trans h.ppu_readBuffer
  · exact k.ppu_palette.trans h.ppu_palette
  · exact k.ppu_ciram.trans h.ppu_ciram
  · exact k.ppu_frame.trans h.ppu_frame

theorem State.dotEvents_same (s : State) : SameButDots s s.dotEvents := by
  apply State.dotEvents_cases (P := SameButDots s)
  · exact .refl s
  · constructor <;> rfl
  · intro px
    unfold State.spriteZeroTest
    split
    · constructor <;> rfl
    · exact .refl s
  · constructor <;> rfl
  · unfold State.scanlineClock
    split
    · constructor <;> rfl
    · exact .refl s
  · constructor <;> rfl
  · constructor <;> rfl

/-- The coordinate advance writes the coordinate and the frame-start pulse. -/
theorem Ppu.advance_eq (p : Ppu) : p.advance = { p with
    dot := p.advance.dot, scanline := p.advance.scanline
    pulseFrameStart := p.advance.pulseFrameStart } := by
  unfold Ppu.advance
  repeat' split
  all_goals rfl

theorem State.ppuDot_same (s : State) : SameButDots s s.ppuDot := by
  refine (State.dotEvents_same s).trans ?_
  unfold State.ppuDot
  dsimp only
  rw [Ppu.advance_eq]
  constructor <;> rfl

theorem State.ppuDots_same (n : Nat) (s : State) : SameButDots s (State.ppuDots n s) := by
  induction n generalizing s with
  | zero => exact .refl s
  | succ n ih => exact (State.ppuDot_same s).trans (ih _)

theorem State.ppuDots_add (m n : Nat) (s : State) :
    State.ppuDots (m + n) s = State.ppuDots n (State.ppuDots m s) := by
  induction m generalizing s with
  | zero => simp [State.ppuDots]
  | succ m ih => rw [Nat.succ_add]; exact ih _

/-- No event of a dot but the advance writes the coordinate. -/
theorem State.dotEvents_coordinate (s : State) :
    s.dotEvents.ppu.scanline = s.ppu.scanline ∧ s.dotEvents.ppu.dot = s.ppu.dot := by
  apply State.dotEvents_cases (P := fun t => t.ppu.scanline = s.ppu.scanline ∧ t.ppu.dot = s.ppu.dot)
  · exact ⟨rfl, rfl⟩
  · exact ⟨rfl, rfl⟩
  · intro px
    unfold State.spriteZeroTest
    split <;> exact ⟨rfl, rfl⟩
  · exact ⟨rfl, rfl⟩
  · unfold State.scanlineClock
    split <;> exact ⟨rfl, rfl⟩
  · exact ⟨rfl, rfl⟩
  · exact ⟨rfl, rfl⟩

/-! ### An audio cycle -/

/-- A machine with another audio chip and draw counter. -/
def State.withApu (s : State) (u : Apu) (draws : Nat) : State := { s with apu := u, draws := draws }

/-- The memory reader changes the audio chip and the draw counter alone. -/
theorem State.dmcReader_eq (s : State) :
    s.dmcReader = s.withApu s.dmcReader.apu s.dmcReader.draws := by
  unfold State.dmcReader
  split <;> rfl

/-- An audio cycle changes the audio chip and the draw counter alone. -/
theorem State.apuCycle_eq (s : State) :
    s.apuCycle = s.withApu s.apuCycle.apu s.apuCycle.draws := by
  unfold State.apuCycle
  dsimp only
  rw [State.dmcReader_eq]
  rfl

theorem State.apuTicks_eq (n : Nat) (s : State) :
    State.apuTicks n s = s.withApu (State.apuTicks n s).apu (State.apuTicks n s).draws := by
  induction n generalizing s with
  | zero => rfl
  | succ n ih =>
    have h := ih s.apuCycle
    rw [State.apuTicks, h, State.apuCycle_eq]
    rfl

theorem Apu.frameSequencerCycle_apuCycles (u : Apu) : u.frameSequencerCycle.apuCycles = u.apuCycles := by
  unfold Apu.frameSequencerCycle
  dsimp only
  repeat' split
  all_goals rfl

theorem Apu.dmcTakeByte_apuCycles (u : Apu) (v : Byte) : (u.dmcTakeByte v).apuCycles = u.apuCycles := by
  unfold Apu.dmcTakeByte
  dsimp only
  repeat' split
  all_goals rfl

/-- The memory reader changes the delta channel and its interrupt flag alone. -/
theorem Apu.dmcTakeByte_eq (u : Apu) (v : Byte) :
    u.dmcTakeByte v = { u with dmc := (u.dmcTakeByte v).dmc, dmcIrq := (u.dmcTakeByte v).dmcIrq } := by
  unfold Apu.dmcTakeByte
  dsimp only
  repeat' split
  all_goals rfl

theorem State.dmcReader_apu (s : State) :
    s.dmcReader.apu = { s.apu with dmc := s.dmcReader.apu.dmc, dmcIrq := s.dmcReader.apu.dmcIrq } := by
  unfold State.dmcReader
  split
  · exact Apu.dmcTakeByte_eq _ _
  · rfl

theorem State.apuCycle_apuCycles (s : State) : s.apuCycle.apu.apuCycles = s.apu.apuCycles + 1 := by
  unfold State.apuCycle
  dsimp only
  rw [State.dmcReader_apu]
  exact Apu.frameSequencerCycle_apuCycles _

theorem State.apuTicks_apuCycles (n : Nat) (s : State) :
    (State.apuTicks n s).apu.apuCycles = s.apu.apuCycles + n := by
  induction n generalizing s with
  | zero => rfl
  | succ n ih => rw [State.apuTicks, ih, State.apuCycle_apuCycles]; omega

/-! ### The ticks and the step -/

/-- The device ticks are the dots, the audio cycles, the mapper's clock, the IRQ line and, after a
vblank-start pulse, the frame. -/
theorem State.tickDevices_cases (n : Nat) (s u : State) (hu : State.ppuDots (3 * n) s = u) :
    (u.ppu.pulseVblankStart = true ∧
      s.tickDevices n = ((State.apuTicks n u).clockMapper n).sampleIrq.renderFrame) ∨
    (u.ppu.pulseVblankStart = false ∧ s.tickDevices n = ((State.apuTicks n u).clockMapper n).sampleIrq) := by
  have h : ((State.apuTicks n u).clockMapper n).sampleIrq.ppu = u.ppu := by
    rw [State.apuTicks_eq]
    rfl
  have e : s.tickDevices n = if u.ppu.pulseVblankStart
      then ((State.apuTicks n u).clockMapper n).sampleIrq.renderFrame
      else ((State.apuTicks n u).clockMapper n).sampleIrq := by
    rw [← h, ← hu, State.tickDevices]
  cases hp : u.ppu.pulseVblankStart
  · exact .inr ⟨rfl, by rw [e, hp, if_neg Bool.false_ne_true]⟩
  · exact .inl ⟨rfl, by rw [e, hp, if_pos rfl]⟩

/-- The processor's registers, its memories and the pads are the same. -/
structure SameCpu (s t : State) : Prop where
  a : t.a = s.a
  x : t.x = s.x
  y : t.y = s.y
  sp : t.sp = s.sp
  p : t.p = s.p
  pc : t.pc = s.pc
  cycles : t.cycles = s.cycles
  ram : t.ram = s.ram
  prgRam : t.prgRam = s.prgRam
  pads : t.pads = s.pads

/-- The device ticks leave the processor's registers, its memories and the pads. -/
theorem State.tickDevices_cpu (n : Nat) (s : State) : SameCpu s (s.tickDevices n) := by
  have h := State.ppuDots_same (3 * n) s
  obtain ⟨u, hu⟩ : ∃ u, State.ppuDots (3 * n) s = u := ⟨_, rfl⟩
  have k := State.apuTicks_eq n u
  rw [hu] at h
  rcases State.tickDevices_cases n s u hu with ⟨-, e⟩ | ⟨-, e⟩ <;> rw [e, k] <;>
    exact ⟨h.a, h.x, h.y, h.sp, h.p, h.pc, h.cycles, h.ram, h.prgRam, h.pads⟩

/-- A step that goes on: there is a cartridge, the processor step goes on, and the ticks and the clearing
of the pulses follow. -/
theorem step_next {s t : State} (h : step s = .next t) :
    ∃ c u, s.cart = some c ∧ s.cpuStep = .next u ∧
      t = (u.tickDevices (u.cycles - s.cycles)).clearPulses := by
  unfold step State.stepAndClear State.systemStep at h
  split at h
  case h_1 u hu =>
    split at hu
    · cases hu
    · next c hc =>
      split at hu
      · next v hv => cases hu; cases h; exact ⟨c, v, hc, hv, rfl⟩
      · cases hu
      · cases hu
  · cases h
  · cases h

/-- The converse of `step_next`. -/
theorem step_of_cpuStep {s u : State} (hc : s.cart.isSome = true) (hu : s.cpuStep = .next u) :
    step s = .next (u.tickDevices (u.cycles - s.cycles)).clearPulses := by
  obtain ⟨c, hc⟩ := Option.isSome_iff_exists.mp hc
  simp [step, State.stepAndClear, State.systemStep, hc, hu]

/-- A processor step is an NMI service, an IRQ service, or the fetched instruction (60 R401). -/
theorem State.cpuStep_cases (s : State) :
    (s.nmiPending = true ∧ s.cpuStep = .next s.nmiService) ∨
    (s.nmiPending = false ∧ s.irqLine = true ∧ s.p.i = false ∧ s.cpuStep = .next s.irqService) ∨
    (s.nmiPending = false ∧ (s.irqLine = false ∨ s.p.i = true) ∧
      s.cpuStep = exec s.fetch.1 s.fetch.2) := by
  unfold State.cpuStep
  cases s.nmiPending <;> cases s.irqLine <;> cases s.p.i <;> simp

/-- Fetching changes nothing of the processor and its memories. -/
theorem State.fetch_state (s : State) :
    s.fetch.2 = s.fetch.2.withCpu s ∧ s.fetch.2.ram = s.ram ∧ s.fetch.2.prgRam = s.prgRam := by
  unfold State.fetch
  dsimp only
  repeat' split
  all_goals exact ⟨by apply State.eq_withCpu <;> simp, by simp, by simp⟩

/-- One open-bus group over a dot, without the split at the parameter's lower bound (61 R538). -/
theorem ageGroup_eq (age : Nat) (bits : Byte) :
    ageGroup age bits = (if Config.openBusDecayDots ≤ age then age else age + 1,
      if age + 1 = Config.openBusDecayDots then 0 else bits) := by
  have : Config.openBusDecayMin ≤ Config.openBusDecayDots := Nat.le_add_right _ _
  unfold ageGroup
  split
  · rw [if_neg (by omega), if_neg (by omega)]
  · split
    · rw [if_neg (c := Config.openBusDecayDots ≤ age) (by omega)]
    · rw [if_pos (by omega), if_neg (by omega)]

/-- The events of a dot leave open bus alone. -/
theorem State.dotEvents_openBus (s : State) :
    s.dotEvents.ppu.ob = s.ppu.ob ∧ s.dotEvents.ppu.ageLo = s.ppu.ageLo ∧
    s.dotEvents.ppu.ageB5 = s.ppu.ageB5 ∧ s.dotEvents.ppu.ageHi = s.ppu.ageHi := by
  unfold State.dotEvents State.takeSnapshot State.spriteZeroTest State.scanlineClock State.enterVblank
    Ppu.overflowTest Ppu.preRenderClear
  dsimp only
  repeat' split
  all_goals exact ⟨rfl, rfl, rfl, rfl⟩

end Sys2Proof.Machine
end

