-- ==== Sys2Proof/Laws/Invariant.lean ====
section
/-! SUPPORT. Which operations keep the invariant of Safety.lean: bus accesses, dots and audio cycles. -/

namespace Sys2Proof.Machine

/-! ### Indices stay inside their memories -/

theorem ramIndex_lt (a : Addr) : ramIndex a < 2048 := Nat.mod_lt _ (by decide)

theorem prgRamIndex_lt {a : Addr} (h : a < 0x8000#16) : prgRamIndex a < 8192 := by
  have : a.toNat < 0x8000 := h
  unfold prgRamIndex
  omega

theorem paletteIndex_lt (a : BitVec 14) : paletteIndex a < 32 := by
  have : a.toNat % 32 < 32 := Nat.mod_lt _ (by decide)
  unfold paletteIndex
  dsimp only
  split <;> omega

theorem Cartridge.ciramIndex_lt (c : Cartridge) (a : BitVec 14) : c.ciramIndex a < 4096 := by
  unfold Cartridge.ciramIndex
  split
  · exact Nat.mod_lt _ (by decide)
  · have h : (a.toNat - 0x2000) / 0x400 % 4 < 4 := Nat.mod_lt _ (by decide)
    have k : a.toNat % 0x400 < 0x400 := Nat.mod_lt _ (by decide)
    cases c.effectiveMirroring <;> simp only [mirrorPage] <;> omega

/-- Every index the mapper gives for CHR lies inside it (63 R718). -/
theorem Cartridge.mapPpuWrite_lt {c : Cartridge} (h : c.Inv) {a : BitVec 14} {i : Nat}
    (hi : c.mapPpuWrite a = some i) : i < c.chrSize := by
  unfold Cartridge.mapPpuWrite at hi
  split at hi
  · cases hi; exact Nat.mod_lt _ h.chr_nonempty
  · obtain ⟨j, -, rfl⟩ := Option.map_eq_some_iff.mp hi
    exact Nat.mod_lt _ h.chr_nonempty

/-! ### The cartridge -/

/-- Only the mapper's registers change. -/
theorem Cartridge.Inv.regs {c : Cartridge} (h : c.Inv) (r : MapperRegs) :
    Cartridge.Inv { c with regs := r } := ⟨h.prg_nonempty, h.chr_nonempty, h.prgRom_wf, h.chr_wf⟩

theorem Cartridge.Inv.mapCpuWrite {c : Cartridge} (h : c.Inv) (a : Addr) (v : Byte) :
    (c.mapCpuWrite a v).Inv := by
  unfold Cartridge.mapCpuWrite
  split
  · exact h
  · exact h.regs _

theorem Cartridge.Inv.onPpuScanline {c : Cartridge} (h : c.Inv) (n : Nat) : (c.onPpuScanline n).Inv := by
  unfold Cartridge.onPpuScanline
  split
  · exact h
  · exact h.regs _

theorem Cartridge.Inv.onCpuCycles {c : Cartridge} (h : c.Inv) (n : Nat) : (c.onCpuCycles n).Inv := by
  unfold Cartridge.onCpuCycles
  split
  · exact h
  · exact h.regs _

theorem Cartridge.Inv.readRegister {c d : Cartridge} {v : Byte} {a : Addr} (h : c.Inv)
    (hr : c.readRegister a = some (v, d)) : d.Inv := by
  unfold Cartridge.readRegister at hr
  split at hr
  · cases hr
  · obtain ⟨r, -, e⟩ := Option.map_eq_some_iff.mp hr
    cases e
    exact h.regs _

theorem Cartridge.Inv.writeRegister {c d : Cartridge} {a : Addr} {v : Byte} (h : c.Inv)
    (hr : c.writeRegister a v = some d) : d.Inv := by
  unfold Cartridge.writeRegister at hr
  split at hr
  · cases hr
  · obtain ⟨r, -, e⟩ := Option.map_eq_some_iff.mp hr
    cases e
    exact h.regs _

/-! ### One part replaced -/

theorem State.Inv.withDraws {s : State} (h : s.Inv) (n : Nat) : State.Inv { s with draws := n } :=
  ⟨h.ram_wf, h.prgRam_wf, h.ppu, h.apu, h.cart, h.pad0_count, h.pad1_count⟩

theorem State.Inv.withCycles {s : State} (h : s.Inv) (n : Nat) : State.Inv { s with cycles := n } :=
  ⟨h.ram_wf, h.prgRam_wf, h.ppu, h.apu, h.cart, h.pad0_count, h.pad1_count⟩

theorem State.Inv.withPrgRam {s : State} (h : s.Inv) {m : Memory} (hm : m.wf 8192) :
    State.Inv { s with prgRam := m } :=
  ⟨h.ram_wf, hm, h.ppu, h.apu, h.cart, h.pad0_count, h.pad1_count⟩

theorem State.Inv.withPpu {s : State} (h : s.Inv) {p : Ppu} (hp : p.Inv) :
    State.Inv { s with ppu := p } :=
  ⟨h.ram_wf, h.prgRam_wf, hp, h.apu, h.cart, h.pad0_count, h.pad1_count⟩

theorem State.Inv.withCart {s : State} (h : s.Inv) {c : Option Cartridge}
    (hc : ∀ d, c = some d → d.Inv) : State.Inv { s with cart := c } :=
  ⟨h.ram_wf, h.prgRam_wf, h.ppu, h.apu, hc, h.pad0_count, h.pad1_count⟩

theorem State.Inv.withAudio {s : State} (h : s.Inv) {u : Apu} (hu : u.Inv) :
    State.Inv { s with apu := u } :=
  ⟨h.ram_wf, h.prgRam_wf, h.ppu, hu, h.cart, h.pad0_count, h.pad1_count⟩

theorem State.Inv.withPads {s : State} (h : s.Inv) {q : Pads} (h0 : q.pad0.count ≤ 8)
    (h1 : q.pad1.count ≤ 8) : State.Inv { s with pads := q } :=
  ⟨h.ram_wf, h.prgRam_wf, h.ppu, h.apu, h.cart, h0, h1⟩

/-- The invariant does not look at the processor. -/
theorem State.Inv.withCpu {s : State} (h : s.Inv) (c : State) : (s.withCpu c).Inv :=
  ⟨h.ram_wf, h.prgRam_wf, h.ppu, h.apu, h.cart, h.pad0_count, h.pad1_count⟩

/-! ### The video chip's registers -/

theorem Ppu.Inv.refreshAll {p : Ppu} (h : p.Inv) (v : Byte) : (p.refreshAll v).Inv :=
  { h with ageLo_bound := Nat.zero_le _, ageB5_bound := Nat.zero_le _, ageHi_bound := Nat.zero_le _ }

theorem Ppu.Inv.statusEffect {p : Ppu} (h : p.Inv) : p.statusEffect.Inv :=
  { h with ageB5_bound := Nat.zero_le _, ageHi_bound := Nat.zero_le _ }

theorem Ppu.Inv.writeOam {p : Ppu} (h : p.Inv) (v : Byte) : (p.writeOam v).Inv :=
  { h with oam_wf := Memory.write_wf h.oam_wf p.oamAddr.isLt v }

theorem Ppu.Inv.writeScroll {p : Ppu} (h : p.Inv) (v : Byte) : (p.writeScroll v).Inv := by
  unfold Ppu.writeScroll
  split <;> exact { h with }

theorem Ppu.Inv.writeAddr {p : Ppu} (h : p.Inv) (v : Byte) : (p.writeAddr v).Inv := by
  unfold Ppu.writeAddr
  split <;> exact { h with }

theorem State.Inv.dataEffect {s : State} (h : s.Inv) : s.dataEffect.Inv := by
  have k : s.dataEffect.ppu.Inv := by
    unfold State.dataEffect
    dsimp only
    split
    · exact { h.ppu.refreshAll s.dataValue with }
    · exact { h.ppu with ageLo_bound := Nat.zero_le _, ageB5_bound := Nat.zero_le _ }
  exact ⟨h.ram_wf, h.prgRam_wf, k, h.apu, h.cart, h.pad0_count, h.pad1_count⟩

theorem State.Inv.ppuRegReadEffect {s : State} (h : s.Inv) (r : BitVec 3) :
    (s.ppuRegReadEffect r).Inv := by
  unfold State.ppuRegReadEffect
  split
  · exact h.withPpu h.ppu.statusEffect
  split
  · exact h.withPpu (h.ppu.refreshAll _)
  split
  · exact h.dataEffect
  · exact h

theorem State.Inv.ppuWrite {s : State} (h : s.Inv) (a : BitVec 14) (v : Byte) : (s.ppuWrite a v).Inv := by
  unfold State.ppuWrite
  split
  · split
    · exact h
    · next c hc =>
      have hi := h.cart c hc
      split
      · next i e =>
        split
        · refine h.withCart fun d hd => ?_
          cases hd
          exact ⟨hi.prg_nonempty, hi.chr_nonempty, hi.prgRom_wf,
            Memory.write_wf hi.chr_wf (Cartridge.mapPpuWrite_lt hi e) v⟩
        · exact h
      · exact h
  split
  · split
    · exact h.withPpu { h.ppu with
        ciram_wf := Memory.write_wf h.ppu.ciram_wf (Cartridge.ciramIndex_lt _ a) v }
    · exact h
  · refine h.withPpu { h.ppu with
      palette_wf := Memory.write_wf h.ppu.palette_wf (paletteIndex_lt a) _
      palette_six_bits := fun c hc => ?_ }
    rcases Memory.mem_write hc with hc | hc
    · rw [hc, BitVec.toNat_and]
      exact Nat.lt_of_le_of_lt Nat.and_le_right (by decide)
    · exact h.ppu.palette_six_bits c hc

theorem State.Inv.ppuRegWrite {s : State} (h : s.Inv) (r : BitVec 3) (v : Byte) :
    (s.ppuRegWrite r v).Inv := by
  have k := h.withPpu (h.ppu.refreshAll v)
  unfold State.ppuRegWrite
  dsimp only
  split
  · exact ⟨k.ram_wf, k.prgRam_wf, { k.ppu with }, k.apu, k.cart, k.pad0_count, k.pad1_count⟩
  split
  · exact k.withPpu { k.ppu with }
  split
  · exact k
  split
  · exact k.withPpu { k.ppu with }
  split
  · exact k.withPpu (k.ppu.writeOam v)
  split
  · exact k.withPpu (k.ppu.writeScroll v)
  split
  · exact k.withPpu (k.ppu.writeAddr v)
  · have w := k.ppuWrite ({ s with ppu := s.ppu.refreshAll v } : State).ppu.dataAddr v
    exact w.withPpu { w.ppu with }

/-! ### The audio chip -/

theorem lengthOf_le (v : Byte) : (lengthOf v).toNat ≤ 254 := by revert v; decide +kernel

theorem clockLength_le {n : Byte} (h : n.toNat ≤ 254) (b : Bool) : (clockLength n b).toNat ≤ 254 := by
  unfold clockLength
  split
  · exact h
  · next k =>
    have : n ≠ 0 := fun e => k (.inl e)
    bv_omega

theorem enableLength_le {n : Byte} (h : n.toNat ≤ 254) (b : Bool) : (enableLength n b).toNat ≤ 254 := by
  unfold enableLength
  split
  · exact h
  · decide

/-- A length-load write loads from the table if the channel is enabled. -/
theorem loadLength_le {n : Byte} (h : n.toNat ≤ 254) (b : Bool) (v : Byte) :
    (if b then lengthOf v else n).toNat ≤ 254 := by
  split
  · exact lengthOf_le v
  · exact h

theorem Apu.Inv.quarterFrame {u : Apu} (h : u.Inv) : u.quarterFrame.Inv := { h with }

theorem Apu.Inv.halfFrame {u : Apu} (h : u.Inv) : u.halfFrame.Inv := { h with
  length1_range := clockLength_le h.length1_range _
  length2_range := clockLength_le h.length2_range _
  lengthT_range := clockLength_le h.lengthT_range _
  lengthN_range := clockLength_le h.lengthN_range _ }

theorem Apu.Inv.writeEnable {u : Apu} (h : u.Inv) (v : Byte) : (u.writeEnable v).Inv := { h with
  bitsLeft_range := by
    show (if _ then _ else if _ then _ else _ : Dmc).bitsLeft ≤ 8
    repeat' split
    all_goals exact h.bitsLeft_range
  length1_range := enableLength_le h.length1_range _
  length2_range := enableLength_le h.length2_range _
  lengthT_range := enableLength_le h.lengthT_range _
  lengthN_range := enableLength_le h.lengthN_range _ }

theorem Apu.Inv.writeFrameCounter {u : Apu} (h : u.Inv) (v : Byte) : (u.writeFrameCounter v).Inv := by
  have k : Apu.Inv { u with
      fs := ⟨v.getLsbD 7, v.getLsbD 6, 0⟩, frameIrq := u.frameIrq && !v.getLsbD 6 } :=
    { h with counter_range := by show 0 < (if _ then 37282 else 29830); split <;> decide }
  unfold Apu.writeFrameCounter
  dsimp only
  split
  · exact k.quarterFrame.halfFrame
  · exact k

theorem Apu.Inv.ite {c : Prop} [Decidable c] {u v : Apu} (hu : u.Inv) (hv : v.Inv) :
    (if c then u else v).Inv := by
  split
  · exact hu
  · exact hv

theorem Apu.Inv.regWrite {u : Apu} (h : u.Inv) (a : Addr) (v : Byte) : (u.regWrite a v).Inv := by
  unfold Apu.regWrite
  repeat' with_reducible apply Apu.Inv.ite
  all_goals first
    | exact h.writeEnable v
    | exact h.writeFrameCounter v
    | exact h
    | exact { h with length1_range := loadLength_le h.length1_range _ v }
    | exact { h with length2_range := loadLength_le h.length2_range _ v }
    | exact { h with lengthT_range := loadLength_le h.lengthT_range _ v }
    | exact { h with lengthN_range := loadLength_le h.lengthN_range _ v }
    | exact { h with }

/-- A shift register that is not zero stays so (62 R660). -/
theorem Noise.nextShift_ne_zero {n : Noise} (h : n.shift ≠ 0) : n.nextShift ≠ 0 := by
  intro e
  have hs : n.shift >>> 1 = 0 := (BitVec.or_eq_zero_iff.mp e).1
  have one : n.shift = 1 := by
    have hn := congrArg BitVec.toNat hs
    rw [BitVec.toNat_ushiftRight, Nat.shiftRight_eq_div_pow] at hn
    have h0 : n.shift.toNat ≠ 0 := fun k => h (BitVec.eq_of_toNat_eq k)
    exact BitVec.eq_of_toNat_eq (by simp at hn ⊢; omega)
  rw [Noise.nextShift, one] at e
  revert e
  cases n.mode <;> decide

/-- The sequencer's count stays below its period (62 R640). -/
theorem FrameSequencer.next_lt {f : FrameSequencer} (h : f.counter < f.period) :
    (if f.counter + 1 = (if f.mode then 37282 else 29830) then 0 else f.counter + 1)
      < (if f.mode then 37282 else 29830) := by
  have h : f.counter < (if f.mode then 37282 else 29830) := h
  revert h
  generalize (if f.mode then 37282 else 29830) = n
  intro h
  split <;> omega

theorem Apu.Inv.frameSequencerCycle {u : Apu} (h : u.Inv) : u.frameSequencerCycle.Inv := by
  have k : Apu.Inv { u with
      fs := { u.fs with counter :=
        if u.fs.counter + 1 = (if u.fs.mode then 37282 else 29830) then 0 else u.fs.counter + 1 }
      frameIrq := u.frameIrq || (!u.fs.mode && u.fs.counter + 1 == 29829 && !u.fs.irqInhibit) } :=
    { h with counter_range := FrameSequencer.next_lt h.counter_range }
  unfold Apu.frameSequencerCycle
  exact .ite k.quarterFrame (.ite k.quarterFrame.halfFrame k)

theorem Dmc.outputUnit_bitsLeft {d : Dmc} (h : d.bitsLeft ≤ 8) : d.outputUnit.bitsLeft ≤ 8 := by
  unfold Dmc.outputUnit
  dsimp only
  repeat' split
  all_goals first
    | exact Nat.le_refl 8
    | exact h
    | exact Nat.le_trans (Nat.sub_le _ _) h

theorem Pulse.clockTimer_length (p : Pulse) : p.clockTimer.length = p.length := by
  unfold Pulse.clockTimer
  split <;> rfl

theorem Triangle.clockTimer_length (t : Triangle) : t.clockTimer.length = t.length := by
  unfold Triangle.clockTimer
  split <;> rfl

theorem Noise.clockTimer_length (n : Noise) : n.clockTimer.length = n.length := by
  unfold Noise.clockTimer
  split <;> rfl

theorem Noise.clockTimer_shift {n : Noise} (h : n.shift ≠ 0) : n.clockTimer.shift ≠ 0 := by
  unfold Noise.clockTimer
  split
  · exact Noise.nextShift_ne_zero h
  · exact h

/-- The units after the frame sequencer, the pulse timers clocked or not. -/
theorem Apu.Inv.timers {u : Apu} (h : u.Inv) (even : Bool) : Apu.Inv { u with
    tri := u.tri.clockTimer
    pulse1 := if even then u.pulse1.clockTimer else u.pulse1
    pulse2 := if even then u.pulse2.clockTimer else u.pulse2
    noise := u.noise.clockTimer
    dmc := u.dmc.outputUnit } := by
  refine { h with
    noise_alive := Noise.clockTimer_shift h.noise_alive
    bitsLeft_range := Dmc.outputUnit_bitsLeft h.bitsLeft_range
    length1_range := ?_
    length2_range := ?_
    lengthT_range := by rw [Triangle.clockTimer_length]; exact h.lengthT_range
    lengthN_range := by rw [Noise.clockTimer_length]; exact h.lengthN_range }
  · cases even
    · exact h.length1_range
    · exact (Pulse.clockTimer_length u.pulse1).symm ▸ h.length1_range
  · cases even
    · exact h.length2_range
    · exact (Pulse.clockTimer_length u.pulse2).symm ▸ h.length2_range

theorem Apu.Inv.clockUnits {u : Apu} (h : u.Inv) : u.clockUnits.Inv :=
  (Apu.Inv.frameSequencerCycle (u := { u with apuCycles := u.apuCycles + 1 }) { h with }).timers _

theorem Apu.Inv.dmcTakeByte {u : Apu} (h : u.Inv) (v : Byte) : (u.dmcTakeByte v).Inv := by
  unfold Apu.dmcTakeByte
  dsimp only
  repeat' split
  all_goals exact { h with }

theorem pushFrame_length (ring : List (Rat × Rat)) (f : Rat × Rat) :
    (pushFrame ring f).length ≤ Config.audioRingCapacity := by
  unfold pushFrame
  simp only [List.length_drop]
  omega

theorem OutputStage.cycle_ring {o : OutputStage} (h : o.ring.length ≤ Config.audioRingCapacity) (m : Rat) :
    (o.cycle m).ring.length ≤ Config.audioRingCapacity := by
  unfold OutputStage.cycle
  dsimp only
  split
  · exact pushFrame_length _ _
  · exact h

theorem Apu.Inv.outputCycle {u : Apu} (h : u.Inv) (m : Rat) : Apu.Inv { u with out := u.out.cycle m } :=
  { h with ring_bound := OutputStage.cycle_ring h.ring_bound m }

theorem State.Inv.dmcReader {s : State} (h : s.Inv) : s.dmcReader.Inv := by
  unfold State.dmcReader
  split
  · exact (h.withDraws _).withAudio (h.apu.dmcTakeByte _)
  · exact h

theorem State.Inv.apuCycle {s : State} (h : s.Inv) : s.apuCycle.Inv := by
  have k := (h.withAudio h.apu.clockUnits).dmcReader
  exact k.withAudio (k.apu.outputCycle _)

theorem State.Inv.apuTicks {s : State} (h : s.Inv) (n : Nat) : (State.apuTicks n s).Inv := by
  induction n generalizing s with
  | zero => exact h
  | succ n ih => exact ih h.apuCycle

/-! ### Dots -/

theorem ageGroup_le {age : Nat} (h : age ≤ Config.openBusDecayDots) (bits : Byte) :
    (ageGroup age bits).1 ≤ Config.openBusDecayDots := by
  have : Config.openBusDecayMin ≤ Config.openBusDecayDots := Nat.le_add_right _ _
  unfold ageGroup
  split
  · show age + 1 ≤ _
    omega
  split
  · show age + 1 ≤ _
    omega
  · exact h

theorem Ppu.Inv.openBusAge {p : Ppu} (h : p.Inv) : p.openBusAge.Inv := { h with
  ageLo_bound := ageGroup_le h.ageLo_bound _
  ageB5_bound := ageGroup_le h.ageB5_bound _
  ageHi_bound := ageGroup_le h.ageHi_bound _ }

theorem Ppu.Inv.advance {p : Ppu} (h : p.Inv) : p.advance.Inv := by
  have hs := h.scanline_range
  have hd := h.dot_range
  unfold Ppu.advance
  split
  · split
    · exact { h with scanline_range := Nat.zero_lt_succ _, dot_range := Nat.zero_lt_succ _ }
    · exact { h with
        scanline_range := (by omega : p.scanline + 1 < 262)
        dot_range := Nat.zero_lt_succ _ }
  · exact { h with dot_range := (by omega : p.dot + 1 < 341) }

theorem State.Inv.dotEvents {s : State} (h : s.Inv) : s.dotEvents.Inv := by
  apply State.dotEvents_cases (P := State.Inv)
  · exact h
  · exact h.withPpu { h.ppu with snap_count := (List.length_set ..).trans h.ppu.snap_count }
  · intro px
    unfold State.spriteZeroTest
    split
    · exact ⟨h.ram_wf, h.prgRam_wf, { h.ppu with }, h.apu, h.cart, h.pad0_count, h.pad1_count⟩
    · exact h
  · exact h.withPpu { h.ppu with }
  · unfold State.scanlineClock
    split
    · refine h.withCart fun d hd => ?_
      obtain ⟨c, hc, rfl⟩ := Option.map_eq_some_iff.mp hd
      exact (h.cart c hc).onPpuScanline _
    · exact h
  · exact ⟨h.ram_wf, h.prgRam_wf, { h.ppu with }, h.apu, h.cart, h.pad0_count, h.pad1_count⟩
  · exact h.withPpu { h.ppu with }

theorem State.Inv.ppuDots {s : State} (h : s.Inv) (n : Nat) : (State.ppuDots n s).Inv := by
  induction n generalizing s with
  | zero => exact h
  | succ n ih => exact ih (h.dotEvents.withPpu h.dotEvents.ppu.openBusAge.advance)

/-! ### The bus -/

theorem Pads.readEffect_count {p : Pads} (h0 : p.pad0.count ≤ 8) (h1 : p.pad1.count ≤ 8) (b : Bool) :
    (p.readEffect b).pad0.count ≤ 8 ∧ (p.readEffect b).pad1.count ≤ 8 := by
  unfold Pads.readEffect
  dsimp only
  split
  · next h =>
    have k := of_decide_eq_true (Bool.and_eq_true_iff.mp h).2
    cases b <;> simp only [Pads.setPad, Pads.pad] at k ⊢
    · exact ⟨k, h1⟩
    · exact ⟨h0, k⟩
  · exact ⟨h0, h1⟩

theorem State.Inv.hookedRead {s : State} (h : s.Inv) (a : Addr) {r : Byte × State} (k : r.2.Inv) :
    (s.hookedRead a r).2.Inv := by
  unfold State.hookedRead
  cases e : s.cart.bind (·.readRegister a) with
  | none => exact k
  | some r =>
    obtain ⟨c, hc, hr⟩ := Option.bind_eq_some_iff.mp e
    refine h.withCart (c := some r.2) fun d hd => ?_
    cases hd
    exact (h.cart c hc).readRegister hr

theorem State.Inv.prgRead {s : State} (h : s.Inv) (a : Addr) : (s.prgRead a).2.Inv := by
  unfold State.prgRead
  split
  · exact h
  · exact h.withDraws _

/-- Every bus read keeps the invariant. -/
theorem State.Inv.memRead {s : State} (h : s.Inv) (a : Addr) : (s.memRead a).2.Inv := by
  revert s
  refine State.memRead_cases (P := fun f => ∀ {s : State}, s.Inv → (f s).2.Inv) a ?_ ?_ ?_ ?_ ?_ ?_ ?_ ?_
  · exact fun _ _ h => h
  · exact fun _ _ _ h => h.ppuRegReadEffect _
  · exact fun h => h.withDraws _
  · exact fun h => (h.withDraws _).withAudio { h.apu with }
  · intro b s h
    have k := Pads.readEffect_count h.pad0_count h.pad1_count b
    exact (h.withDraws _).withPads k.1 k.2
  · exact fun h => h.hookedRead a (h.withDraws _)
  · exact fun _ _ _ h => h.hookedRead a h
  · exact fun _ _ h => h.prgRead a

theorem State.Inv.oamStore {s : State} (h : s.Inv) (i : Nat) (v : Byte) : (s.oamStore i v).Inv :=
  h.withPpu (p := { s.ppu with oam := s.ppu.oam.write ((s.ppu.oamAddr.toNat + i) % 256) v })
    { h.ppu with oam_wf := Memory.write_wf h.ppu.oam_wf (Nat.mod_lt _ (by decide)) _ }

theorem State.Inv.dmaCopy {s : State} (h : s.Inv) (page : Byte) (n i : Nat) :
    (s.dmaCopy page n i).Inv := by
  induction n generalizing s i with
  | zero => exact h
  | succ n ih => exact ih ((h.withDraws _).oamStore _ _) _

theorem State.Inv.hookedWrite {s t : State} (h : s.Inv) (k : t.Inv) (a : Addr) (v : Byte) :
    (s.hookedWrite a v t).Inv := by
  unfold State.hookedWrite
  cases e : s.cart.bind (·.writeRegister a v) with
  | none => exact k
  | some d =>
    obtain ⟨c, hc, hr⟩ := Option.bind_eq_some_iff.mp e
    refine h.withCart (c := some d) fun d' hd => ?_
    cases hd
    exact (h.cart c hc).writeRegister hr

/-- Every bus write keeps the invariant. -/
theorem State.Inv.memWrite {s : State} (h : s.Inv) (a : Addr) (v : Byte) : (s.memWrite a v).Inv := by
  revert s
  refine State.memWrite_cases (P := fun f => ∀ {s : State}, s.Inv → (f s).Inv) a v
    ?_ ?_ ?_ ?_ ?_ ?_ ?_ ?_ ?_
  · exact fun _ _ h => ⟨Memory.write_wf h.ram_wf (ramIndex_lt a) v, h.prgRam_wf, h.ppu, h.apu, h.cart,
      h.pad0_count, h.pad1_count⟩
  · exact fun _ _ _ h => h.ppuRegWrite _ v
  · exact fun _ _ h => (h.dmaCopy v 256 0).withCycles _
  · intro _ s h
    unfold Pads.strobeWrite
    dsimp only
    split
    · exact h.withPads (Nat.zero_le _) (Nat.zero_le _)
    · exact h.withPads h.pad0_count h.pad1_count
  · exact fun _ _ h => h.withAudio (h.apu.regWrite a v)
  · exact fun _ _ h => h
  · exact fun _ _ h => h.hookedWrite h a v
  · exact fun _ ha _ h => h.hookedWrite
      (h.withPrgRam (Memory.write_wf h.prgRam_wf (prgRamIndex_lt ha) v)) a v
  · intro _ s h
    refine h.withCart fun d hd => ?_
    obtain ⟨c, hc, rfl⟩ := Option.map_eq_some_iff.mp hd
    exact (h.cart c hc).mapCpuWrite a v

end Sys2Proof.Machine
end

