-- ==== Sys2Proof/Laws/PerInstr.lean ====
section
/-! SUPPORT. The statements made once for each instruction, as syntax. -/

/-! EncodeLength: an instruction is encoded in as many bytes as its length says (30 R120, R121). -/

def Sys2Proof.Laws.EncodeLength.Statement (i : Sys2Proof.Instr) : Prop :=
  (Sys2Proof.encode i).length = i.length

namespace Sys2Proof.Laws.EncodeLength

theorem lda (m : AddrMode) : Statement (.lda m) := by cases m <;> rfl
theorem ldx (m : AddrMode) : Statement (.ldx m) := by cases m <;> rfl
theorem ldy (m : AddrMode) : Statement (.ldy m) := by cases m <;> rfl
theorem sta (m : AddrMode) : Statement (.sta m) := by cases m <;> rfl
theorem stx (m : AddrMode) : Statement (.stx m) := by cases m <;> rfl
theorem sty (m : AddrMode) : Statement (.sty m) := by cases m <;> rfl
theorem tax : Statement .tax := rfl
theorem tay : Statement .tay := rfl
theorem txa : Statement .txa := rfl
theorem tya : Statement .tya := rfl
theorem tsx : Statement .tsx := rfl
theorem txs : Statement .txs := rfl
theorem pha : Statement .pha := rfl
theorem php : Statement .php := rfl
theorem pla : Statement .pla := rfl
theorem plp : Statement .plp := rfl
theorem adc (m : AddrMode) : Statement (.adc m) := by cases m <;> rfl
theorem sbc (m : AddrMode) : Statement (.sbc m) := by cases m <;> rfl
theorem and (m : AddrMode) : Statement (.and m) := by cases m <;> rfl
theorem ora (m : AddrMode) : Statement (.ora m) := by cases m <;> rfl
theorem eor (m : AddrMode) : Statement (.eor m) := by cases m <;> rfl
theorem bit (m : AddrMode) : Statement (.bit m) := by cases m <;> rfl
theorem cmp (m : AddrMode) : Statement (.cmp m) := by cases m <;> rfl
theorem cpx (m : AddrMode) : Statement (.cpx m) := by cases m <;> rfl
theorem cpy (m : AddrMode) : Statement (.cpy m) := by cases m <;> rfl
theorem inc (m : AddrMode) : Statement (.inc m) := by cases m <;> rfl
theorem dec (m : AddrMode) : Statement (.dec m) := by cases m <;> rfl
theorem inx : Statement .inx := rfl
theorem iny : Statement .iny := rfl
theorem dex : Statement .dex := rfl
theorem dey : Statement .dey := rfl
theorem asl (m : AddrMode) : Statement (.asl m) := by cases m <;> rfl
theorem lsr (m : AddrMode) : Statement (.lsr m) := by cases m <;> rfl
theorem rol (m : AddrMode) : Statement (.rol m) := by cases m <;> rfl
theorem ror (m : AddrMode) : Statement (.ror m) := by cases m <;> rfl
theorem jmp (m : AddrMode) : Statement (.jmp m) := by cases m <;> rfl
theorem jsr (target : Addr) : Statement (.jsr target) := rfl
theorem rts : Statement .rts := rfl
theorem rti : Statement .rti := rfl
theorem brk : Statement .brk := rfl
theorem bpl (off : Byte) : Statement (.bpl off) := rfl
theorem bmi (off : Byte) : Statement (.bmi off) := rfl
theorem bvc (off : Byte) : Statement (.bvc off) := rfl
theorem bvs (off : Byte) : Statement (.bvs off) := rfl
theorem bcc (off : Byte) : Statement (.bcc off) := rfl
theorem bcs (off : Byte) : Statement (.bcs off) := rfl
theorem bne (off : Byte) : Statement (.bne off) := rfl
theorem beq (off : Byte) : Statement (.beq off) := rfl
theorem clc : Statement .clc := rfl
theorem sec : Statement .sec := rfl
theorem cli : Statement .cli := rfl
theorem sei : Statement .sei := rfl
theorem clv : Statement .clv := rfl
theorem cld : Statement .cld := rfl
theorem sed : Statement .sed := rfl
theorem nop : Statement .nop := rfl
theorem lax (m : AddrMode) : Statement (.lax m) := by cases m <;> rfl
theorem sax (m : AddrMode) : Statement (.sax m) := by cases m <;> rfl
theorem slo (m : AddrMode) : Statement (.slo m) := by cases m <;> rfl
theorem rla (m : AddrMode) : Statement (.rla m) := by cases m <;> rfl
theorem sre (m : AddrMode) : Statement (.sre m) := by cases m <;> rfl
theorem rra (m : AddrMode) : Statement (.rra m) := by cases m <;> rfl
theorem dcp (m : AddrMode) : Statement (.dcp m) := by cases m <;> rfl
theorem isb (m : AddrMode) : Statement (.isb m) := by cases m <;> rfl
theorem sbcEB (v : Byte) : Statement (.sbcEB v) := rfl
theorem nopImp (op : Byte) : Statement (.nopImp op) := rfl
theorem nopImm (op v : Byte) : Statement (.nopImm op v) := rfl
theorem nopZp (op a : Byte) : Statement (.nopZp op a) := rfl
theorem nopZpx (op a : Byte) : Statement (.nopZpx op a) := rfl
theorem nopAbs (a : Addr) : Statement (.nopAbs a) := rfl
theorem nopAbsx (op : Byte) (a : Addr) : Statement (.nopAbsx op a) := rfl
theorem jam (op : Byte) : Statement (.jam op) := rfl
theorem anc (op : Byte) : Statement (.anc op) := rfl
theorem alr : Statement .alr := rfl
theorem arr : Statement .arr := rfl
theorem xaa : Statement .xaa := rfl
theorem lxa : Statement .lxa := rfl
theorem axs : Statement .axs := rfl
theorem ahx (op : Byte) : Statement (.ahx op) := rfl
theorem tas : Statement .tas := rfl
theorem shy : Statement .shy := rfl
theorem shx : Statement .shx := rfl
theorem las : Statement .las := rfl

end Sys2Proof.Laws.EncodeLength
end

