-- ==== Sys2Proof/Tests/Slice0.lean ====
section
/-! SUPPORT. Tests and witnesses. Expected results come from the spec: "95 §n" is a table of
95_test_vectors.md, "Encoding" the line of that name in an instruction's rule, "opcode table" the file
opcode_table.json. -/

-- One theorem after another: each evaluation waits for the kernel, and a thread for each would be too many.
set_option Elab.async false

open Sys2Proof Sys2Proof.Machine Sys2Proof.Ref

namespace Sys2Proof.Tests

/-! ## Well-formedness: for each check one term it refuses -/

theorem test_wellFormed_refuses_lda : (Instr.wellFormed (.lda .acc)) = false := rfl
theorem test_wellFormed_refuses_ldx : (Instr.wellFormed (.ldx (.zpx 0))) = false := rfl
theorem test_wellFormed_refuses_ldy : (Instr.wellFormed (.ldy (.zpy 0))) = false := rfl
theorem test_wellFormed_refuses_sta : (Instr.wellFormed (.sta (.imm 0))) = false := rfl
theorem test_wellFormed_refuses_stx : (Instr.wellFormed (.stx (.zpx 0))) = false := rfl
theorem test_wellFormed_refuses_sty : (Instr.wellFormed (.sty (.zpy 0))) = false := rfl
theorem test_wellFormed_refuses_adc : (Instr.wellFormed (.adc (.zpy 0))) = false := rfl
theorem test_wellFormed_refuses_sbc : (Instr.wellFormed (.sbc (.ind 0))) = false := rfl
theorem test_wellFormed_refuses_and : (Instr.wellFormed (.and .acc)) = false := rfl
theorem test_wellFormed_refuses_ora : (Instr.wellFormed (.ora (.zpy 0))) = false := rfl
theorem test_wellFormed_refuses_eor : (Instr.wellFormed (.eor (.ind 0))) = false := rfl
theorem test_wellFormed_refuses_bit : (Instr.wellFormed (.bit (.imm 0))) = false := rfl
theorem test_wellFormed_refuses_cmp : (Instr.wellFormed (.cmp .acc)) = false := rfl
theorem test_wellFormed_refuses_cpx : (Instr.wellFormed (.cpx (.zpx 0))) = false := rfl
theorem test_wellFormed_refuses_cpy : (Instr.wellFormed (.cpy (.absy 0))) = false := rfl
theorem test_wellFormed_refuses_inc : (Instr.wellFormed (.inc .acc)) = false := rfl
theorem test_wellFormed_refuses_dec : (Instr.wellFormed (.dec (.imm 0))) = false := rfl
theorem test_wellFormed_refuses_asl : (Instr.wellFormed (.asl (.imm 0))) = false := rfl
theorem test_wellFormed_refuses_lsr : (Instr.wellFormed (.lsr (.absy 0))) = false := rfl
theorem test_wellFormed_refuses_rol : (Instr.wellFormed (.rol (.izx 0))) = false := rfl
theorem test_wellFormed_refuses_ror : (Instr.wellFormed (.ror (.izy 0))) = false := rfl
theorem test_wellFormed_refuses_jmp : (Instr.wellFormed (.jmp (.zp 0))) = false := rfl
theorem test_wellFormed_refuses_lax : (Instr.wellFormed (.lax (.imm 0))) = false := rfl
theorem test_wellFormed_refuses_sax : (Instr.wellFormed (.sax (.zpx 0))) = false := rfl
theorem test_wellFormed_refuses_slo : (Instr.wellFormed (.slo .acc)) = false := rfl
theorem test_wellFormed_refuses_rla : (Instr.wellFormed (.rla (.imm 0))) = false := rfl
theorem test_wellFormed_refuses_sre : (Instr.wellFormed (.sre (.zpy 0))) = false := rfl
theorem test_wellFormed_refuses_rra : (Instr.wellFormed (.rra (.ind 0))) = false := rfl
theorem test_wellFormed_refuses_dcp : (Instr.wellFormed (.dcp .acc)) = false := rfl
theorem test_wellFormed_refuses_isb : (Instr.wellFormed (.isb (.imm 0))) = false := rfl
theorem test_wellFormed_refuses_nopImp : (Instr.wellFormed (.nopImp 0xEA)) = false := rfl
theorem test_wellFormed_refuses_nopImm : (Instr.wellFormed (.nopImm 0x83 0)) = false := rfl
theorem test_wellFormed_refuses_nopZp : (Instr.wellFormed (.nopZp 0x24 0)) = false := rfl
theorem test_wellFormed_refuses_nopZpx : (Instr.wellFormed (.nopZpx 0x55 0)) = false := rfl
theorem test_wellFormed_refuses_nopAbsx : (Instr.wellFormed (.nopAbsx 0x9C 0)) = false := rfl
theorem test_wellFormed_refuses_jam : (Instr.wellFormed (.jam 0x0A)) = false := rfl
theorem test_wellFormed_refuses_anc : (Instr.wellFormed (.anc 0x4B)) = false := rfl
theorem test_wellFormed_refuses_ahx : (Instr.wellFormed (.ahx 0x9B)) = false := rfl

/-! ## Decoding: every constructor from a word written out from its "Encoding" line -/

theorem test_decode_load_store_transfer :
    decode [0b10101001, 0b10000000] = .ok (.lda (.imm 0x80), []) ∧
    decode [0b10110110, 0b11111111] = .ok (.ldx (.zpy 0xFF), []) ∧
    decode [0b10111100, 0b00110100, 0b00010010] = .ok (.ldy (.absx 0x1234), []) ∧
    decode [0b10010001, 0b00010000] = .ok (.sta (.izy 0x10), []) ∧
    decode [0b10001110, 0b00000000, 0b00000010] = .ok (.stx (.abs 0x0200), []) ∧
    decode [0b10010100, 0b01000100] = .ok (.sty (.zpx 0x44), []) ∧
    decode [0b10101010] = .ok (.tax, []) ∧
    decode [0b10101000] = .ok (.tay, []) ∧
    decode [0b10001010] = .ok (.txa, []) ∧
    decode [0b10011000] = .ok (.tya, []) ∧
    decode [0b10111010] = .ok (.tsx, []) ∧
    decode [0b10011010] = .ok (.txs, []) :=
  ⟨rfl, rfl, rfl, rfl, rfl, rfl, rfl, rfl, rfl, rfl, rfl, rfl⟩

theorem test_decode_stack :
    decode [0b01001000] = .ok (.pha, []) ∧
    decode [0b00001000] = .ok (.php, []) ∧
    decode [0b01101000] = .ok (.pla, []) ∧
    decode [0b00101000] = .ok (.plp, []) :=
  ⟨rfl, rfl, rfl, rfl⟩

theorem test_decode_arithmetic :
    decode [0b01100001, 0b01000100] = .ok (.adc (.izx 0x44), []) ∧
    decode [0b11111001, 0b00110100, 0b00010010] = .ok (.sbc (.absy 0x1234), []) ∧
    decode [0b11100110, 0b00010000] = .ok (.inc (.zp 0x10), []) ∧
    decode [0b11011110, 0b00110100, 0b00010010] = .ok (.dec (.absx 0x1234), []) ∧
    decode [0b11101000] = .ok (.inx, []) ∧
    decode [0b11001000] = .ok (.iny, []) ∧
    decode [0b11001010] = .ok (.dex, []) ∧
    decode [0b10001000] = .ok (.dey, []) :=
  ⟨rfl, rfl, rfl, rfl, rfl, rfl, rfl, rfl⟩

theorem test_decode_logic_compare :
    decode [0b00110101, 0b01000100] = .ok (.and (.zpx 0x44), []) ∧
    decode [0b00001101, 0b00110100, 0b00010010] = .ok (.ora (.abs 0x1234), []) ∧
    decode [0b01010001, 0b01000100] = .ok (.eor (.izy 0x44), []) ∧
    decode [0b00101100, 0b00000010, 0b00100000] = .ok (.bit (.abs 0x2002), []) ∧
    decode [0b11000001, 0b01000100] = .ok (.cmp (.izx 0x44), []) ∧
    decode [0b11100000, 0b11111111] = .ok (.cpx (.imm 0xFF), []) ∧
    decode [0b11000100, 0b01000100] = .ok (.cpy (.zp 0x44), []) :=
  ⟨rfl, rfl, rfl, rfl, rfl, rfl, rfl⟩

theorem test_decode_shift_rotate :
    decode [0b00001010] = .ok (.asl .acc, []) ∧
    decode [0b01000110, 0b01000100] = .ok (.lsr (.zp 0x44), []) ∧
    decode [0b00110110, 0b00001110] = .ok (.rol (.zpx 0x0E), []) ∧
    decode [0b01111110, 0b00110100, 0b00010010] = .ok (.ror (.absx 0x1234), []) :=
  ⟨rfl, rfl, rfl, rfl⟩

theorem test_decode_control :
    decode [0b01001100, 0b00000000, 0b10010000] = .ok (.jmp (.abs 0x9000), []) ∧
    decode [0b01101100, 0b11111111, 0b00110000] = .ok (.jmp (.ind 0x30FF), []) ∧
    decode [0b00100000, 0b00100011, 0b10000001] = .ok (.jsr 0x8123, []) ∧
    decode [0b01100000] = .ok (.rts, []) ∧
    decode [0b01000000] = .ok (.rti, []) ∧
    decode [0b00000000] = .ok (.brk, []) ∧
    decode [0b00010000, 0b10000000] = .ok (.bpl 0x80, []) ∧
    decode [0b00110000, 0b01111111] = .ok (.bmi 0x7F, []) ∧
    decode [0b01010000, 0b00000001] = .ok (.bvc 0x01, []) ∧
    decode [0b01110000, 0b00000010] = .ok (.bvs 0x02, []) ∧
    decode [0b10010000, 0b00000011] = .ok (.bcc 0x03, []) ∧
    decode [0b10110000, 0b00000100] = .ok (.bcs 0x04, []) ∧
    decode [0b11010000, 0b11111101] = .ok (.bne 0xFD, []) ∧
    decode [0b11110000, 0b01111111] = .ok (.beq 0x7F, []) :=
  ⟨rfl, rfl, rfl, rfl, rfl, rfl, rfl, rfl, rfl, rfl, rfl, rfl, rfl, rfl⟩

theorem test_decode_flags :
    decode [0b00011000] = .ok (.clc, []) ∧
    decode [0b00111000] = .ok (.sec, []) ∧
    decode [0b01011000] = .ok (.cli, []) ∧
    decode [0b01111000] = .ok (.sei, []) ∧
    decode [0b10111000] = .ok (.clv, []) ∧
    decode [0b11011000] = .ok (.cld, []) ∧
    decode [0b11111000] = .ok (.sed, []) ∧
    decode [0b11101010] = .ok (.nop, []) :=
  ⟨rfl, rfl, rfl, rfl, rfl, rfl, rfl, rfl⟩

theorem test_decode_combined :
    decode [0b10110011, 0b00010000] = .ok (.lax (.izy 0x10), []) ∧
    decode [0b10010111, 0b00010000] = .ok (.sax (.zpy 0x10), []) ∧
    decode [0b00000011, 0b00010000] = .ok (.slo (.izx 0x10), []) ∧
    decode [0b00111011, 0b00110100, 0b00010010] = .ok (.rla (.absy 0x1234), []) ∧
    decode [0b01000111, 0b00010000] = .ok (.sre (.zp 0x10), []) ∧
    decode [0b01110111, 0b00010000] = .ok (.rra (.zpx 0x10), []) ∧
    decode [0b11011111, 0b11111111, 0b00010010] = .ok (.dcp (.absx 0x12FF), []) ∧
    decode [0b11101111, 0b00110100, 0b00010010] = .ok (.isb (.abs 0x1234), []) ∧
    decode [0b11101011, 0b00000001] = .ok (.sbcEB 0x01, []) :=
  ⟨rfl, rfl, rfl, rfl, rfl, rfl, rfl, rfl, rfl⟩

theorem test_decode_illegal_nops :
    decode [0b01011010] = .ok (.nopImp 0x5A, []) ∧
    decode [0b10001001, 0b01000100] = .ok (.nopImm 0x89 0x44, []) ∧
    decode [0b01100100, 0b01000100] = .ok (.nopZp 0x64 0x44, []) ∧
    decode [0b11010100, 0b01000100] = .ok (.nopZpx 0xD4 0x44, []) ∧
    decode [0b00001100, 0b00000010, 0b00100000] = .ok (.nopAbs 0x2002, []) ∧
    decode [0b00111100, 0b11111111, 0b00010010] = .ok (.nopAbsx 0x3C 0x12FF, []) :=
  ⟨rfl, rfl, rfl, rfl, rfl, rfl⟩

theorem test_decode_unimplemented :
    decode [0b00000010] = .ok (.jam 0x02, []) ∧
    decode [0b00101011] = .ok (.anc 0x2B, []) ∧
    decode [0b01001011] = .ok (.alr, []) ∧
    decode [0b01101011] = .ok (.arr, []) ∧
    decode [0b10001011] = .ok (.xaa, []) ∧
    decode [0b10101011] = .ok (.lxa, []) ∧
    decode [0b11001011] = .ok (.axs, []) ∧
    decode [0b10011111] = .ok (.ahx 0x9F, []) ∧
    decode [0b10011011] = .ok (.tas, []) ∧
    decode [0b10011100] = .ok (.shy, []) ∧
    decode [0b10011110] = .ok (.shx, []) ∧
    decode [0b10111011] = .ok (.las, []) :=
  ⟨rfl, rfl, rfl, rfl, rfl, rfl, rfl, rfl, rfl, rfl, rfl, rfl⟩

/-- A byte the opcode's length leaves out is the next instruction's (46 R376: length 1). -/
theorem test_decode_leaves_the_rest : decode [0x93, 0x44] = .ok (.ahx 0x93, [0x44]) := rfl

/-- Bytes that are not all there are refused by name. -/
theorem test_decode_refuses_by_name : decode [] = .error .noOpcode ∧ decode [0xA9] = .error .missingOperand ∧
    decode [0x8D, 0x00] = .error .missingOperand := ⟨rfl, rfl, rfl⟩

/-- A table word: the first byte is the low one, and the bits it leaves out are 0. -/
theorem test_tableWord : decodeTableWord 24 0x1234BD = some (.lda (.absx 0x1234)) ∧
    decodeTableWord 8 0xBD = some (.lda (.absx 0)) ∧ decodeTableWord 16 0x80A9 = some (.lda (.imm 0x80)) :=
  ⟨rfl, rfl, rfl⟩

/-! ## One step of an instruction -/

/-- NROM, 32 KB: NMI vector $9100, reset vector $8000, IRQ/BRK vector $C000; vertical mirroring. -/
def cartridge : Cartridge :=
  { blankCartridge with
    prgRom := ⟨.zero, [(0x7FFB, 0x91), (0x7FFD, 0x80), (0x7FFF, 0xC0)]⟩, mirroring := .vertical }

/-- The reset state with that cartridge, some registers and some work RAM. -/
def start (a x y sp p : Byte) (ram : List Host.Cell) (pc : Addr) : State :=
  { State.reset with
    a := a, x := x, y := y, sp := sp, p := Flags.ofByte p, pc := pc, cycles := 0
    ram := ⟨.zero, ram⟩, cart := some cartridge }

/-- The bytes are one instruction, and what it answers from a state passes the check. -/
def after (bytes : List Byte) (s : State) (check : State → Bool) : Bool :=
  match decode bytes with
  | .ok (i, []) => match exec i s with
    | .next t => check t
    | _ => false
  | _ => false

/-- 95 §2.1 -/
theorem test_lda_zpx_wraps : after [0xB5, 0x80] (start 0x11 0x90 0x00 0xFD 0x24 [(0x0110, 0x55)] 0x8000)
    (fun t => t.a == 0x00 && t.p.toByte == 0x26 && t.cycles == 4) = true := by decide +kernel

/-- 95 §2.1 -/
theorem test_ldx_zpy_wraps : after [0xB6, 0xFF] (start 0x00 0x00 0x02 0xFD 0x24 [(0x0001, 0xFE)] 0x8000)
    (fun t => t.x == 0xFE && t.p.toByte == 0xA4 && t.cycles == 4) = true := by decide +kernel

/-- 95 §2.1 -/
theorem test_lda_absx_crosses : after [0xBD, 0xFF, 0x12] (start 0x00 0x01 0x00 0xFD 0x24 [(0x0300, 0x80)] 0x8000)
    (fun t => t.a == 0x80 && t.p.toByte == 0xA4 && t.cycles == 5) = true := by decide +kernel

/-- 95 §2.1 -/
theorem test_lda_izx_pointer_wraps : after [0xA1, 0xFF] (start 0x00 0x00 0x00 0xFD 0x24 [(0x0000, 0x02), (0x00FF, 0x34), (0x0234, 0x5A)] 0x8000)
    (fun t => t.a == 0x5A && t.cycles == 6) = true := by decide +kernel

/-- 95 §2.1 (the row of LDA, for LDY) -/
theorem test_ldy_absx_no_cross : after [0xBC, 0x00, 0x12] (start 0x00 0x01 0x00 0xFD 0x24 [(0x0201, 0x01)] 0x8000)
    (fun t => t.y == 0x01 && t.cycles == 4) = true := by decide +kernel

/-- 95 §2.1 -/
theorem test_sta_absx_no_penalty : after [0x9D, 0x00, 0x02] (start 0x42 0xFF 0x00 0xFD 0x24 [] 0x8000)
    (fun t => t.ram.read 0x02FF == 0x42 && t.cycles == 5) = true := by decide +kernel

/-- 95 §2.1 -/
theorem test_asl_absx_no_penalty : after [0x1E, 0x00, 0x03] (start 0x00 0xFF 0x00 0xFD 0x24 [(0x03FF, 0x40)] 0x8000)
    (fun t => t.ram.read 0x03FF == 0x80 && t.p.toByte == 0xA4 && t.cycles == 7) = true := by decide +kernel

/-- 95 §3 program P2 (the row of §2.1 has its pointer in the video window, log 13) -/
theorem test_jmp_indirect_page_wrap : after [0x6C, 0xFF, 0x02] (start 0x00 0x00 0x00 0xFD 0x24 [(0x0200, 0x80), (0x02FF, 0x30), (0x0300, 0x90)] 0x8000)
    (fun t => t.pc == 0x8030 && t.cycles == 5) = true := by decide +kernel

/-- 95 §2.1 -/
theorem test_bne_backward_crossing : after [0xD0, 0xFD] (start 0x00 0x00 0x00 0xFD 0x24 [] 0x8100)
    (fun t => t.pc == 0x80FF && t.cycles == 4) = true := by decide +kernel

/-- 95 §2.1 -/
theorem test_beq_taken : after [0xF0, 0x7F] (start 0x00 0x00 0x00 0xFD 0x26 [] 0x8000)
    (fun t => t.pc == 0x8081 && t.cycles == 3) = true := by decide +kernel

/-- 95 §2.1 -/
theorem test_beq_not_taken : after [0xF0, 0x7F] (start 0x00 0x00 0x00 0xFD 0x24 [] 0x8000)
    (fun t => t.pc == 0x8002 && t.cycles == 2) = true := by decide +kernel

/-- 95 §2.2 -/
theorem test_lda_zero : after [0xA9, 0x00] (start 0x55 0x00 0x00 0xFD 0x24 [] 0x8000)
    (fun t => t.a == 0x00 && t.p.toByte == 0x26 && t.cycles == 2) = true := by decide +kernel

/-- 95 §2.2 -/
theorem test_stx_zpy_wraps : after [0x96, 0x10] (start 0x00 0x10 0xF5 0xFD 0x24 [] 0x8000)
    (fun t => t.ram.read 0x0005 == 0x10 && t.p.toByte == 0x24 && t.cycles == 4) = true := by decide +kernel

/-- 40 R206 -/
theorem test_sty_zp : after [0x84, 0x10] (start 0x00 0x00 0x77 0xFD 0x24 [] 0x8000)
    (fun t => t.ram.read 0x0010 == 0x77 && t.p.toByte == 0x24 && t.cycles == 3) = true := by decide +kernel

/-- 95 §2.2 -/
theorem test_tsx_of_zero : after [0xBA] (start 0x00 0x05 0x00 0x00 0x24 [] 0x8000)
    (fun t => t.x == 0x00 && t.p.toByte == 0x26 && t.cycles == 2) = true := by decide +kernel

/-- 95 §2.2 -/
theorem test_txs_sets_no_flags : after [0x9A] (start 0x00 0x00 0x00 0xFD 0x24 [] 0x8000)
    (fun t => t.sp == 0x00 && t.p.toByte == 0x24 && t.cycles == 2) = true := by decide +kernel

/-- 95 §2.2 -/
theorem test_sta_to_ppuctrl_mirror : after [0x8D, 0x08, 0x20] (start 0x80 0x00 0x00 0xFD 0x24 [] 0x8000)
    (fun t => t.ppu.ctrl == 0x80 && t.cycles == 4) = true := by decide +kernel

/-- 40 R207 -/
theorem test_tax : after [0xAA] (start 0x80 0x00 0x00 0xFD 0x24 [] 0x8000)
    (fun t => t.x == 0x80 && t.a == 0x80 && t.p.toByte == 0xA4) = true := by decide +kernel

/-- 40 R208 -/
theorem test_tay : after [0xA8] (start 0x80 0x01 0x00 0xFD 0x24 [] 0x8000)
    (fun t => t.y == 0x80 && t.x == 0x01 && t.p.toByte == 0xA4) = true := by decide +kernel

/-- 40 R209 -/
theorem test_txa : after [0x8A] (start 0x07 0x01 0x03 0xFD 0x24 [] 0x8000)
    (fun t => t.a == 0x01 && t.y == 0x03 && t.p.toByte == 0x24) = true := by decide +kernel

/-- 40 R210 -/
theorem test_tya : after [0x98] (start 0x07 0x01 0x03 0xFD 0x24 [] 0x8000)
    (fun t => t.a == 0x03 && t.x == 0x01 && t.p.toByte == 0x24) = true := by decide +kernel

/-- 95 §2.3 -/
theorem test_php_sets_b_and_u : after [0x08] (start 0x00 0x00 0x00 0x00 0xE7 [] 0x8000)
    (fun t => t.ram.read 0x0100 == 0xF7 && t.sp == 0xFF && t.p.toByte == 0xE7 && t.cycles == 3) = true := by decide +kernel

/-- 95 §2.3 -/
theorem test_plp_drops_b : after [0x28] (start 0x00 0x00 0x00 0xFF 0x24 [(0x0100, 0x10)] 0x8000)
    (fun t => t.p.toByte == 0x20 && t.sp == 0x00 && t.cycles == 4) = true := by decide +kernel

/-- 95 §2.3 -/
theorem test_pla_sets_flags : after [0x68] (start 0x09 0x00 0x00 0xFC 0x24 [] 0x8000)
    (fun t => t.a == 0x00 && t.p.toByte == 0x26 && t.sp == 0xFD && t.cycles == 4) = true := by decide +kernel

/-- 95 §2.3 -/
theorem test_pha : after [0x48] (start 0x5A 0x00 0x00 0xFD 0x24 [] 0x8000)
    (fun t => t.ram.read 0x01FD == 0x5A && t.sp == 0xFC && t.cycles == 3) = true := by decide +kernel

/-- 95 §2.4 -/
theorem test_adc_overflow : after [0x69, 0x50] (start 0x50 0x00 0x00 0xFD 0x24 [] 0x8000)
    (fun t => t.a == 0xA0 && t.p.toByte == 0xE4 && t.cycles == 2) = true := by decide +kernel

/-- 95 §2.4 -/
theorem test_adc_carry_and_overflow : after [0x69, 0x90] (start 0xD0 0x00 0x00 0xFD 0x24 [] 0x8000)
    (fun t => t.a == 0x60 && t.p.toByte == 0x65 && t.cycles == 2) = true := by decide +kernel

/-- 95 §2.4 -/
theorem test_sbc_overflow : after [0xE9, 0xB0] (start 0x50 0x00 0x00 0xFD 0x25 [] 0x8000)
    (fun t => t.a == 0xA0 && t.p.toByte == 0xE4 && t.cycles == 2) = true := by decide +kernel

/-- 95 §2.4 -/
theorem test_sbc_borrow_in : after [0xE9, 0x00] (start 0x00 0x00 0x00 0xFD 0x24 [] 0x8000)
    (fun t => t.a == 0xFF && t.p.toByte == 0xA4 && t.cycles == 2) = true := by decide +kernel

/-- 95 §2.4 -/
theorem test_adc_ignores_decimal : after [0x69, 0x09] (start 0x09 0x00 0x00 0xFD 0x2C [] 0x8000)
    (fun t => t.a == 0x12 && t.cycles == 2) = true := by decide +kernel

/-- 95 §2.4 -/
theorem test_cmp_less : after [0xC9, 0x41] (start 0x40 0x00 0x00 0xFD 0x24 [] 0x8000)
    (fun t => t.a == 0x40 && t.p.toByte == 0xA4 && t.cycles == 2) = true := by decide +kernel

/-- 95 §2.4 -/
theorem test_cmp_n_from_difference : after [0xC9, 0x01] (start 0x80 0x00 0x00 0xFD 0x24 [] 0x8000)
    (fun t => t.p.toByte == 0x25 && t.cycles == 2) = true := by decide +kernel

/-- 95 §2.4 -/
theorem test_cpx_unsigned : after [0xE0, 0xFF] (start 0x00 0x00 0x00 0xFD 0x24 [] 0x8000)
    (fun t => t.p.toByte == 0x24 && t.cycles == 2) = true := by decide +kernel

/-- 42 R258 -/
theorem test_cpy_equal : after [0xC0, 0x10] (start 0x00 0x00 0x10 0xFD 0xA4 [] 0x8000)
    (fun t => t.p.toByte == 0x27 && t.y == 0x10) = true := by decide +kernel

/-- 95 §2.4 -/
theorem test_bit_copies_bits : after [0x24, 0x10] (start 0xFF 0x00 0x00 0xFD 0xE4 [(0x0010, 0x3F)] 0x8000)
    (fun t => t.p.toByte == 0x24 && t.cycles == 3) = true := by decide +kernel

/-- 95 §2.4 -/
theorem test_bit_zero : after [0x24, 0x10] (start 0x01 0x00 0x00 0xFD 0x24 [(0x0010, 0xC0)] 0x8000)
    (fun t => t.p.toByte == 0xE6 && t.a == 0x01 && t.cycles == 3) = true := by decide +kernel

/-- 95 §2.4 -/
theorem test_and_to_zero : after [0x29, 0x00] (start 0xFF 0x00 0x00 0xFD 0x24 [] 0x8000)
    (fun t => t.a == 0x00 && t.p.toByte == 0x26 && t.cycles == 2) = true := by decide +kernel

/-- 42 R253 -/
theorem test_ora : after [0x09, 0x0F] (start 0xF0 0x00 0x00 0xFD 0x24 [] 0x8000)
    (fun t => t.a == 0xFF && t.p.toByte == 0xA4) = true := by decide +kernel

/-- 42 R254 -/
theorem test_eor : after [0x49, 0xFF] (start 0xF0 0x00 0x00 0xFD 0x24 [] 0x8000)
    (fun t => t.a == 0x0F && t.p.toByte == 0x24) = true := by decide +kernel

/-- 95 §2.4 -/
theorem test_inc_wraps : after [0xE6, 0x10] (start 0x00 0x00 0x00 0xFD 0x24 [(0x0010, 0xFF)] 0x8000)
    (fun t => t.ram.read 0x0010 == 0x00 && t.p.toByte == 0x26 && t.cycles == 5) = true := by decide +kernel

/-- 95 §2.4 -/
theorem test_dec_zpx_wraps : after [0xD6, 0x0F] (start 0x00 0x01 0x00 0xFD 0x24 [] 0x8000)
    (fun t => t.ram.read 0x0010 == 0xFF && t.p.toByte == 0xA4 && t.cycles == 6) = true := by decide +kernel

/-- 95 §2.4 -/
theorem test_inx_wraps : after [0xE8] (start 0x00 0xFF 0x00 0xFD 0x24 [] 0x8000)
    (fun t => t.x == 0x00 && t.p.toByte == 0x26 && t.cycles == 2) = true := by decide +kernel

/-- 95 §2.4 -/
theorem test_dey_wraps : after [0x88] (start 0x00 0x00 0x00 0xFD 0x24 [] 0x8000)
    (fun t => t.y == 0xFF && t.p.toByte == 0xA4 && t.cycles == 2) = true := by decide +kernel

/-- 42 R262 -/
theorem test_iny : after [0xC8] (start 0x00 0x00 0x7F 0xFD 0x24 [] 0x8000)
    (fun t => t.y == 0x80 && t.x == 0x00 && t.p.toByte == 0xA4) = true := by decide +kernel

/-- 42 R263 -/
theorem test_dex : after [0xCA] (start 0x00 0x01 0x00 0xFD 0x24 [] 0x8000)
    (fun t => t.x == 0x00 && t.p.toByte == 0x26) = true := by decide +kernel

/-- 95 §2.5 -/
theorem test_asl_out_of_bit_7 : after [0x06, 0x10] (start 0x00 0x00 0x00 0xFD 0x24 [(0x0010, 0x80)] 0x8000)
    (fun t => t.ram.read 0x0010 == 0x00 && t.p.toByte == 0x27 && t.cycles == 5) = true := by decide +kernel

/-- 95 §2.5 -/
theorem test_lsr_acc_to_zero : after [0x4A] (start 0x01 0x00 0x00 0xFD 0x24 [] 0x8000)
    (fun t => t.a == 0x00 && t.p.toByte == 0x27 && t.cycles == 2) = true := by decide +kernel

/-- 95 §2.5 -/
theorem test_ror_carry_out : after [0x6E, 0x00, 0x03] (start 0x00 0x00 0x00 0xFD 0x24 [(0x0300, 0x01)] 0x8000)
    (fun t => t.ram.read 0x0300 == 0x00 && t.p.toByte == 0x27 && t.cycles == 6) = true := by decide +kernel

/-- 95 §2.5 -/
theorem test_rol_carry_in_and_out : after [0x36, 0x0E] (start 0x00 0x02 0x00 0xFD 0x25 [(0x0010, 0x80)] 0x8000)
    (fun t => t.ram.read 0x0010 == 0x01 && t.p.toByte == 0x25 && t.cycles == 6) = true := by decide +kernel

/-- 95 §2.5 -/
theorem test_ror_acc_carry_in : after [0x6A] (start 0x02 0x00 0x00 0xFD 0x25 [] 0x8000)
    (fun t => t.a == 0x81 && t.p.toByte == 0xA4 && t.cycles == 2) = true := by decide +kernel

/-- 95 §2.6 -/
theorem test_jsr_pushes_pc_plus_2 : after [0x20, 0x23, 0x81] (start 0x00 0x00 0x00 0xFD 0x24 [] 0x80FE)
    (fun t => t.ram.read 0x01FD == 0x81 && t.ram.read 0x01FC == 0x00 && t.sp == 0xFB && t.pc == 0x8123 && t.cycles == 6) = true := by decide +kernel

/-- 95 §2.6 -/
theorem test_rts_adds_1 : after [0x60] (start 0x00 0x00 0x00 0xFB 0x24 [(0x01FC, 0xFF), (0x01FD, 0x80)] 0x8000)
    (fun t => t.pc == 0x8100 && t.sp == 0xFD && t.cycles == 6) = true := by decide +kernel

/-- 95 §2.6 -/
theorem test_rti_restores_p_and_pc : after [0x40] (start 0x00 0x00 0x00 0xFC 0x24 [(0x01FD, 0xFF), (0x01FE, 0x34), (0x01FF, 0x12)] 0x8000)
    (fun t => t.p.toByte == 0xEF && t.pc == 0x1234 && t.sp == 0xFF && t.cycles == 6) = true := by decide +kernel

/-- 95 §2.6 -/
theorem test_brk_sp_wraps : after [0x00] (start 0x00 0x00 0x00 0x02 0xA5 [] 0x8000)
    (fun t => t.ram.read 0x0102 == 0x80 && t.ram.read 0x0101 == 0x02 && t.ram.read 0x0100 == 0xB5 && t.sp == 0xFF && t.p.toByte == 0xA5 && t.pc == 0xC000 && t.cycles == 7) = true := by decide +kernel

/-- 95 §2.6 -/
theorem test_bmi_cross_forward : after [0x30, 0x7F] (start 0x00 0x00 0x00 0xFD 0xA4 [] 0x80F0)
    (fun t => t.pc == 0x8171 && t.cycles == 4) = true := by decide +kernel

/-- 44 R316 -/
theorem test_bpl_not_taken : after [0x10, 0x7F] (start 0x00 0x00 0x00 0xFD 0xA4 [] 0x8000)
    (fun t => t.pc == 0x8002 && t.cycles == 2) = true := by decide +kernel

/-- 44 R318 -/
theorem test_bvc_taken : after [0x50, 0x80] (start 0x00 0x00 0x00 0xFD 0x24 [] 0x8000)
    (fun t => t.pc == 0x7F82 && t.cycles == 4) = true := by decide +kernel

/-- 44 R319 -/
theorem test_bvs_taken : after [0x70, 0x10] (start 0x00 0x00 0x00 0xFD 0x64 [] 0x8000)
    (fun t => t.pc == 0x8012 && t.cycles == 3) = true := by decide +kernel

/-- 44 R320 -/
theorem test_bcc_not_taken : after [0x90, 0x10] (start 0x00 0x00 0x00 0xFD 0x25 [] 0x8000)
    (fun t => t.pc == 0x8002 && t.cycles == 2) = true := by decide +kernel

/-- 44 R321 -/
theorem test_bcs_taken : after [0xB0, 0x10] (start 0x00 0x00 0x00 0xFD 0x25 [] 0x8000)
    (fun t => t.pc == 0x8012 && t.cycles == 3) = true := by decide +kernel

/-- 95 §2.6 -/
theorem test_jmp_abs : after [0x4C, 0x00, 0x90] (start 0x00 0x00 0x00 0xFD 0x24 [] 0x8000)
    (fun t => t.pc == 0x9000 && t.cycles == 3) = true := by decide +kernel

/-- 95 §2.7 -/
theorem test_clc : after [0x18] (start 0x00 0x00 0x00 0xFD 0x25 [] 0x8000)
    (fun t => t.p.toByte == 0x24 && t.cycles == 2) = true := by decide +kernel

/-- 95 §2.7 -/
theorem test_sec : after [0x38] (start 0x00 0x00 0x00 0xFD 0x24 [] 0x8000)
    (fun t => t.p.toByte == 0x25 && t.cycles == 2) = true := by decide +kernel

/-- 95 §2.7 -/
theorem test_cli : after [0x58] (start 0x00 0x00 0x00 0xFD 0x24 [] 0x8000)
    (fun t => t.p.toByte == 0x20 && t.cycles == 2) = true := by decide +kernel

/-- 95 §2.7 -/
theorem test_sei : after [0x78] (start 0x00 0x00 0x00 0xFD 0x20 [] 0x8000)
    (fun t => t.p.toByte == 0x24 && t.cycles == 2) = true := by decide +kernel

/-- 95 §2.7 -/
theorem test_clv : after [0xB8] (start 0x00 0x00 0x00 0xFD 0x64 [] 0x8000)
    (fun t => t.p.toByte == 0x24 && t.cycles == 2) = true := by decide +kernel

/-- 45 R345 -/
theorem test_cld : after [0xD8] (start 0x00 0x00 0x00 0xFD 0x2C [] 0x8000)
    (fun t => t.p.toByte == 0x24 && t.cycles == 2) = true := by decide +kernel

/-- 45 R346 -/
theorem test_sed : after [0xF8] (start 0x00 0x00 0x00 0xFD 0x24 [] 0x8000)
    (fun t => t.p.toByte == 0x2C && t.cycles == 2) = true := by decide +kernel

/-- 95 §2.7 -/
theorem test_nop : after [0xEA] (start 0x00 0x00 0x00 0xFD 0x24 [] 0x8000)
    (fun t => t.pc == 0x8001 && t.p.toByte == 0x24 && t.cycles == 2) = true := by decide +kernel

/-- 95 §2.8 -/
theorem test_lax_izy_crossing : after [0xB3, 0x10] (start 0x01 0x02 0xFF 0xFD 0x24 [(0x0010, 0x01), (0x0011, 0x03)] 0x8000)
    (fun t => t.a == 0x00 && t.x == 0x00 && t.p.toByte == 0x26 && t.cycles == 6) = true := by decide +kernel

/-- 95 §2.8 -/
theorem test_sax_zpy : after [0x97, 0x10] (start 0xF3 0x5F 0xF5 0xFD 0x24 [] 0x8000)
    (fun t => t.ram.read 0x0005 == 0x53 && t.p.toByte == 0x24 && t.cycles == 4) = true := by decide +kernel

/-- 95 §2.8 -/
theorem test_dcp_absx_no_penalty : after [0xDF, 0xFF, 0x12] (start 0x00 0x01 0x00 0xFD 0x24 [] 0x8000)
    (fun t => t.ram.read 0x0300 == 0xFF && t.a == 0x00 && t.p.toByte == 0x24 && t.cycles == 7) = true := by decide +kernel

/-- 95 §2.8 -/
theorem test_isb_wraps : after [0xE7, 0x10] (start 0x00 0x00 0x00 0xFD 0x25 [(0x0010, 0xFF)] 0x8000)
    (fun t => t.ram.read 0x0010 == 0x00 && t.a == 0x00 && t.p.toByte == 0x27 && t.cycles == 5) = true := by decide +kernel

/-- 95 §2.8 -/
theorem test_slo_izx : after [0x03, 0x10] (start 0x00 0x00 0x00 0xFD 0x24 [(0x0011, 0x03), (0x0300, 0x80)] 0x8000)
    (fun t => t.ram.read 0x0300 == 0x00 && t.a == 0x00 && t.p.toByte == 0x27 && t.cycles == 8) = true := by decide +kernel

/-- 95 §2.8 -/
theorem test_rra_adds_with_new_carry : after [0x67, 0x10] (start 0x7F 0x00 0x00 0xFD 0x25 [(0x0010, 0x02)] 0x8000)
    (fun t => t.ram.read 0x0010 == 0x81 && t.a == 0x00 && t.p.toByte == 0x27 && t.cycles == 5) = true := by decide +kernel

/-- 95 §2.8 -/
theorem test_sre : after [0x47, 0x10] (start 0x00 0x00 0x00 0xFD 0x24 [(0x0010, 0x01)] 0x8000)
    (fun t => t.ram.read 0x0010 == 0x00 && t.a == 0x00 && t.p.toByte == 0x27 && t.cycles == 5) = true := by decide +kernel

/-- 95 §2.8 -/
theorem test_rla : after [0x27, 0x10] (start 0x0F 0x00 0x00 0xFD 0x24 [(0x0010, 0xC3)] 0x8000)
    (fun t => t.ram.read 0x0010 == 0x86 && t.a == 0x06 && t.p.toByte == 0x25 && t.cycles == 5) = true := by decide +kernel

/-- 95 §2.8 -/
theorem test_sbcEB : after [0xEB, 0x01] (start 0x00 0x00 0x00 0xFD 0x25 [] 0x8000)
    (fun t => t.a == 0xFF && t.p.toByte == 0xA4 && t.cycles == 2) = true := by decide +kernel

/-- 95 §2.8 -/
theorem test_nop_absx_crossing : after [0x3C, 0xFF, 0x12] (start 0x00 0x01 0x00 0xFD 0x24 [] 0x8000)
    (fun t => t.pc == 0x8003 && t.cycles == 5) = true := by decide +kernel

/-- 95 §2.8 -/
theorem test_nop_abs_reads_status : after [0x0C, 0x02, 0x20] { (start 0x00 0x00 0x00 0xFD 0x24 [] 0x8000) with ppu := { State.reset.ppu with vblank := true, w := true } }
    (fun t => !t.ppu.vblank && t.pc == 0x8003 && t.cycles == 4) = true := by decide +kernel

/-- 95 §2.8 -/
theorem test_jam_is_one_byte : after [0x02] (start 0x00 0x00 0x00 0xFD 0x24 [] 0x8000)
    (fun t => t.pc == 0x8001 && t.cycles == 2) = true := by decide +kernel

/-- 95 §2.8 -/
theorem test_xaa_leaves_a : after [0x8B] (start 0x12 0x00 0x00 0xFD 0x24 [] 0x8000)
    (fun t => t.pc == 0x8001 && t.a == 0x12 && t.cycles == 2) = true := by decide +kernel

/-- 95 §2.13 -/
theorem test_oam_dma_even : after [0x8D, 0x14, 0x40] { (start 0x02 0x00 0x00 0xFD 0x24 [(0x0200, 0x5A), (0x02FF, 0xA5)] 0x8000) with cycles := 100, ppu := { State.reset.ppu with oamAddr := 0x10 } }
    (fun t => t.cycles == 617 && t.ppu.oam.read 0x10 == 0x5A && t.ppu.oam.read 0x0F == 0xA5) = true := by decide +kernel

/-- 95 §2.13 -/
theorem test_oam_dma_odd : after [0x8D, 0x14, 0x40] { (start 0x02 0x00 0x00 0xFD 0x24 [] 0x8000) with cycles := 101 }
    (fun t => t.cycles == 619) = true := by decide +kernel

/-- The "cycles" column of the opcode table, one list for each high nibble of the opcode. -/
def tableCycles : List Nat :=
  [7, 6, 2, 8, 3, 3, 5, 5, 3, 2, 2, 2, 4, 4, 6, 6]
  ++ [2, 5, 2, 8, 4, 4, 6, 6, 2, 4, 2, 7, 4, 4, 7, 7]
  ++ [6, 6, 2, 8, 3, 3, 5, 5, 4, 2, 2, 2, 4, 4, 6, 6]
  ++ [2, 5, 2, 8, 4, 4, 6, 6, 2, 4, 2, 7, 4, 4, 7, 7]
  ++ [6, 6, 2, 8, 3, 3, 5, 5, 3, 2, 2, 2, 3, 4, 6, 6]
  ++ [2, 5, 2, 8, 4, 4, 6, 6, 2, 4, 2, 7, 4, 4, 7, 7]
  ++ [6, 6, 2, 8, 3, 3, 5, 5, 4, 2, 2, 2, 5, 4, 6, 6]
  ++ [2, 5, 2, 8, 4, 4, 6, 6, 2, 4, 2, 7, 4, 4, 7, 7]
  ++ [2, 6, 2, 6, 3, 3, 3, 3, 2, 2, 2, 2, 4, 4, 4, 4]
  ++ [2, 6, 2, 2, 4, 4, 4, 4, 2, 5, 2, 2, 2, 5, 2, 2]
  ++ [2, 6, 2, 6, 3, 3, 3, 3, 2, 2, 2, 2, 4, 4, 4, 4]
  ++ [2, 5, 2, 5, 4, 4, 4, 4, 2, 4, 2, 2, 4, 4, 4, 4]
  ++ [2, 6, 2, 8, 3, 3, 5, 5, 2, 2, 2, 2, 4, 4, 6, 6]
  ++ [2, 5, 2, 8, 4, 4, 6, 6, 2, 4, 2, 7, 4, 4, 7, 7]
  ++ [2, 6, 2, 8, 3, 3, 5, 5, 2, 2, 2, 2, 4, 4, 6, 6]
  ++ [2, 5, 2, 8, 4, 4, 6, 6, 2, 4, 2, 7, 4, 4, 7, 7]

/-- Opcode table: the cycles of every opcode, operand bytes $10 $02, no page crossed, no flag set but I (so
that BPL, BVC, BCC and BNE are taken: one cycle more, 30 R147). -/
theorem test_cycles_of_every_opcode : (List.range 256).all (fun n =>
    match exec (decodeOp (BitVec.ofNat 8 n) 0x10 0x02) (start 0 0 0 0xFD 0x24 [] 0x8000) with
    | .next t => t.cycles == tableCycles.getD n 0 + if [0x10, 0x50, 0x90, 0xD0].contains n then 1 else 0
    | _ => false) = true := by decide +kernel

/-- Opcode table: the length of every opcode. -/
theorem test_length_of_every_opcode : (List.range 256).map (fun n => opLength (BitVec.ofNat 8 n)) =
    [1, 2, 1, 2, 2, 2, 2, 2, 1, 2, 1, 1, 3, 3, 3, 3]
    ++ [2, 2, 1, 2, 2, 2, 2, 2, 1, 3, 1, 3, 3, 3, 3, 3]
    ++ [3, 2, 1, 2, 2, 2, 2, 2, 1, 2, 1, 1, 3, 3, 3, 3]
    ++ [2, 2, 1, 2, 2, 2, 2, 2, 1, 3, 1, 3, 3, 3, 3, 3]
    ++ [1, 2, 1, 2, 2, 2, 2, 2, 1, 2, 1, 1, 3, 3, 3, 3]
    ++ [2, 2, 1, 2, 2, 2, 2, 2, 1, 3, 1, 3, 3, 3, 3, 3]
    ++ [1, 2, 1, 2, 2, 2, 2, 2, 1, 2, 1, 1, 3, 3, 3, 3]
    ++ [2, 2, 1, 2, 2, 2, 2, 2, 1, 3, 1, 3, 3, 3, 3, 3]
    ++ [2, 2, 2, 2, 2, 2, 2, 2, 1, 2, 1, 1, 3, 3, 3, 3]
    ++ [2, 2, 1, 1, 2, 2, 2, 2, 1, 3, 1, 1, 1, 3, 1, 1]
    ++ [2, 2, 2, 2, 2, 2, 2, 2, 1, 2, 1, 1, 3, 3, 3, 3]
    ++ [2, 2, 1, 2, 2, 2, 2, 2, 1, 3, 1, 1, 3, 3, 3, 3]
    ++ [2, 2, 2, 2, 2, 2, 2, 2, 1, 2, 1, 1, 3, 3, 3, 3]
    ++ [2, 2, 1, 2, 2, 2, 2, 2, 1, 3, 1, 3, 3, 3, 3, 3]
    ++ [2, 2, 2, 2, 2, 2, 2, 2, 1, 2, 1, 2, 3, 3, 3, 3]
    ++ [2, 2, 1, 2, 2, 2, 2, 2, 1, 3, 1, 3, 3, 3, 3, 3] := by decide +kernel

/-- Opcode table: the opcodes with a page-cross penalty are those that cost one more when X = Y = $FF take
$02F0 or the pointer's $02F0 to the next page. -/
theorem test_page_cross_penalties : (List.range 256).filter (fun n =>
    match exec (decodeOp (BitVec.ofNat 8 n) 0xF0 0x02) (start 0 0xFF 0xFF 0xFD 0xE7 [(0xF0, 0xF0), (0xF1, 0x02)] 0x8000) with
    | .next t => t.cycles == tableCycles.getD n 0 + 1 && !(n % 32 == 16)
    | _ => false) =
    [0x11, 0x19, 0x1C, 0x1D, 0x31, 0x39, 0x3C, 0x3D, 0x51, 0x59, 0x5C, 0x5D, 0x71, 0x79,
     0x7C, 0x7D, 0xB1, 0xB3, 0xB9, 0xBC, 0xBD, 0xBE, 0xBF, 0xD1, 0xD9, 0xDC, 0xDD, 0xF1,
     0xF9, 0xFC, 0xFD] := by decide +kernel

/-! ## Interrupts (95 §2.9) -/

/-- What a processor step answers passes the check. -/
def afterCpuStep (s : State) (check : State → Bool) : Bool :=
  match s.cpuStep with
  | .next t => check t
  | _ => false

/-- 95 §1 S11 -/
theorem test_nmi_service : afterCpuStep
    { (start 0 0 0 0xFD 0xA4 [] 0x8005) with nmiPending := true } (fun t =>
      t.ram.read 0x1FD == 0x80 && t.ram.read 0x1FC == 0x05 && t.ram.read 0x1FB == 0xA4 && t.sp == 0xFA &&
      t.p.toByte == 0xA4 && t.pc == 0x9100 && t.cycles == 7 && !t.nmiPending) = true := by decide +kernel

/-- 95 §2.9: IRQ pushes B = 0. -/
theorem test_irq_service : afterCpuStep
    { (start 0 0 0 0xFD 0x20 [] 0x8001) with irqLine := true } (fun t =>
      t.ram.read 0x1FD == 0x80 && t.ram.read 0x1FC == 0x01 && t.ram.read 0x1FB == 0x20 && t.sp == 0xFA &&
      t.p.toByte == 0x24 && t.pc == 0xC000 && t.cycles == 7 && t.irqLine) = true := by decide +kernel

/-- 95 §2.9: NMI before IRQ; the line stays. -/
theorem test_nmi_before_irq : afterCpuStep
    { (start 0 0 0 0xFD 0x20 [] 0x8005) with nmiPending := true, irqLine := true } (fun t =>
      t.pc == 0x9100 && t.irqLine && t.p.i) = true := by decide +kernel

/-- 95 §2.9: a masked IRQ; the instruction at PC, BRK here, executes. -/
theorem test_irq_masked : afterCpuStep
    { (start 0 0 0 0xFD 0x24 [] 0x8000) with irqLine := true } (fun t =>
      t.ram.read 0x1FB == 0x34 && t.ram.read 0x1FC == 0x02) = true := by decide +kernel

/-! ## The step -/

/-- The machine that runs LDA #$80 first after reset. -/
def loaded : State := State.reset.withFetchWord 16 0x80A9

/-- Two cycles, six dots and two audio cycles (60 R417, 40 R201). -/
theorem test_step_runs_placed_word :
    (match step loaded with
      | .next t => t.a == 0x80 && t.p.n && t.cycles == 9 && t.pc == 2 && t.ppu.dot == 6
          && t.apu.apuCycles == 2 && !t.irqLine
      | _ => false) = true := by decide +kernel

/-- 92 D57: nothing is loaded after reset alone. -/
theorem test_step_refuses_without_cartridge :
    (match step State.reset with | .refused .noCartridge => true | _ => false) = true := rfl

/-! ## The video chip (95 §2.10) -/

/-- The reset state with the cartridge of vertical mirroring. -/
def fresh : State := start 0 0 0 0xFD 0x24 [] 0x8000

/-- Bus writes in order. -/
def writes (s : State) (l : List (Addr × Byte)) : State := l.foldl (fun s w => s.memWrite w.1 w.2) s

theorem test_ppu_address_pair :
    let u := writes fresh [(0x2006, 0x3F)]
    let t := writes u [(0x2006, 0x10)]
    (u.ppu.t == 0x3F00 && u.ppu.w && t.ppu.t == 0x3F10 && t.ppu.v == 0x3F10 && !t.ppu.w) = true := by
  decide +kernel

theorem test_ppu_palette_mirror :
    let t := writes fresh [(0x2006, 0x3F), (0x2006, 0x10), (0x2007, 0x2C)]
    let u := (writes t [(0x2006, 0x3F), (0x2006, 0x00)]).memRead 0x2007
    (t.ppu.palette.read 0 == 0x2C && t.ppu.v == 0x3F11 && u.1 == 0x2C && u.2.ppu.v == 0x3F01) = true := by
  decide +kernel

theorem test_ppu_nametable_and_buffer :
    let t := writes fresh [(0x2006, 0x24), (0x2006, 0x00), (0x2007, 0xAB)]
    let u := (writes t [(0x2006, 0x2C), (0x2006, 0x00)]).memRead 0x2007
    (t.ppu.ciram.read 0x400 == 0xAB && t.ppu.v == 0x2401 && u.1 == 0x00
      && (u.2.memRead 0x2007).1 == 0xAB) = true := by decide +kernel

theorem test_ppu_increment_32_and_wrap :
    let t := writes fresh [(0x2000, 0x04), (0x2006, 0x20), (0x2006, 0x00), (0x2007, 0x01)]
    let u := writes { fresh with ppu := { fresh.ppu with v := 0x3FFF } } [(0x2007, 0x0F)]
    (t.ppu.v == 0x2020 && u.ppu.palette.read 0x1F == 0x0F && u.ppu.v == 0x4000) = true := by decide +kernel

theorem test_ppu_scroll :
    let t := writes fresh [(0x2000, 0x00), (0x2005, 0x7D)]
    let u := writes t [(0x2005, 0x5E)]
    let w := writes u [(0x2000, 0x03)]
    (t.ppu.t == 0x000F && t.ppu.x == 5 && t.ppu.w && u.ppu.t == 0x616F && !u.ppu.w && w.ppu.t == 0x6D6F)
      = true := by decide +kernel

theorem test_ppu_status_and_open_bus :
    let s := { fresh with ppu := { fresh.ppu with vblank := true } }
    let u := (writes s [(0x2003, 0xFF)]).memRead 0x2002
    let w := u.2.memRead 0x2001
    (u.1 == 0x9F && !u.2.ppu.vblank && u.2.ppu.ob == 0x9F && w.1 == 0x9F && w.2.ppu.ob == 0x9F) = true := by
  decide +kernel

theorem test_ppu_status_resets_toggle :
    (!((writes fresh [(0x2005, 0x10)]).memRead 0x2002).2.ppu.w) = true := by decide +kernel

/-- A machine at a coordinate, with a mask and some OAM bytes over zeros. -/
def atDot (line dot : Nat) (mask : Byte) (oam : List Host.Cell) : State :=
  { fresh with ppu := { fresh.ppu with scanline := line, dot := dot, mask := mask, oam := ⟨.zero, oam⟩ } }

/-- Nine sprites with Y = $10, the others with Y = $F0. -/
def nineSprites : List Host.Cell :=
  (List.range 64).map fun i => (4 * i, if i < 9 then (0x10 : Byte) else 0xF0)

theorem test_ppu_sprite_overflow :
    ((atDot 16 257 0x18 nineSprites).ppuDot.ppu.spriteOverflow
      && !(atDot 15 257 0x18 nineSprites).ppuDot.ppu.spriteOverflow
      && !(atDot 16 257 0x00 nineSprites).ppuDot.ppu.spriteOverflow) = true := by decide +kernel

/-- The background opaque at every pixel: every tile is tile 0, whose rows are all ones. -/
def opaqueBackground (s : State) : State :=
  { s with
    ppu := { s.ppu with ciram := ⟨.zero, []⟩ }
    cart := some { cartridge with chr := Memory.ofBytes (List.replicate 8 0xFF) } }

/-- The sprite-0 flag after the dot at a coordinate, sprite 0 at Y = $20 and a given X. -/
def zeroHitAt (line dot : Nat) (mask x : Byte) : Bool :=
  (opaqueBackground (atDot line dot mask [(0, 0x20), (3, x)])).ppuDot.ppu.spriteZeroHit

theorem test_ppu_sprite_zero_hit :
    (zeroHitAt 33 65 0x1E 0x40 && !zeroHitAt 33 64 0x1E 0x40 && !zeroHitAt 32 65 0x1E 0x40
      && zeroHitAt 33 9 0x18 0x04 && !zeroHitAt 33 8 0x18 0x04 && !zeroHitAt 33 8 0x18 0x00
      && !zeroHitAt 33 256 0x1E 0xFF) = true := by decide +kernel

theorem test_ppu_vblank_and_frame_start :
    let on := { atDot 241 1 0 [] with ppu := { (atDot 241 1 0 []).ppu with ctrl := 0x80 } }
    (on.ppuDot.ppu.vblank && on.ppuDot.nmiPending && (atDot 241 1 0 []).ppuDot.ppu.vblank
      && !(atDot 241 1 0 []).ppuDot.nmiPending && (atDot 261 340 0 []).ppuDot.ppu.pulseFrameStart
      && (atDot 261 340 0 []).ppuDot.ppu.scanline == 0 && (atDot 261 340 0 []).ppuDot.ppu.dot == 0) = true := by
  decide +kernel

/-! ## The audio chip (95 §2.11) -/

theorem test_apu_length_load :
    let off := writes fresh [(0x4003, 0x08)]
    let on := writes fresh [(0x4015, 0x01), (0x4003, 0x08)]
    (off.apu.pulse1.length == 0 && on.apu.pulse1.length == 254
      && (writes on [(0x4000, 0x30)]).apu.halfFrame.pulse1.length == 254
      && (writes on [(0x4000, 0x10)]).apu.halfFrame.pulse1.length == 253
      && (writes on [(0x4000, 0x10), (0x4017, 0x80)]).apu.pulse1.length == 253
      && (writes on [(0x4015, 0x00)]).apu.pulse1.length == 0) = true := by decide +kernel

/-- The frame interrupt at cycle 29 829 and the restart at 29 830. -/
theorem test_apu_frame_irq :
    let u := { Apu.reset with fs := ⟨false, false, 29828⟩ }
    (u.frameSequencerCycle.frameIrq && u.frameSequencerCycle.fs.counter == 29829
      && u.frameSequencerCycle.frameSequencerCycle.fs.counter == 0
      && !({ u with fs := ⟨false, true, 29828⟩ } : Apu).frameSequencerCycle.frameIrq) = true := by
  decide +kernel

/-- What $4015 returns, whatever bit 5 is drawn as, and what it clears. -/
theorem test_apu_status_read : let u := (writes fresh [(0x4015, 0x11), (0x4003, 0x08)]).apu
    (∀ free, ({ u with frameIrq := true }.statusValue free &&& 0xDF) = 0x51) ∧
    (∀ free, (Apu.reset.statusValue free &&& 0xDF) = 0x00) ∧
    (fresh.memRead 0x4015).2.apu.frameIrq = false := by decide +kernel

theorem test_apu_dmc_start :
    let t := writes fresh [(0x4012, 0x01), (0x4013, 0x02), (0x4015, 0x10)]
    (t.apu.dmc.curAddr == 0xC040 && t.apu.dmc.remaining == 33) = true := by
  decide +kernel

theorem test_apu_noise_shift :
    ({ Apu.reset.noise with shift := 1 } : Noise).nextShift = 0x4000 ∧
    ({ Apu.reset.noise with mode := true, shift := 0x41 } : Noise).nextShift = 0x20 := by decide +kernel

/-- A pulse period below 8 is silent (95 §1 S5). -/
theorem test_apu_period_mute :
    let at_ := fun low : Byte =>
      (writes fresh [(0x4015, 0x01), (0x4000, 0xBF), (0x4002, low), (0x4003, 0x08)]).apu.pulse1
    ((List.range 8).all fun k =>
      ({ at_ 7 with dutyPos := BitVec.ofNat 3 k } : Pulse).output true == 0
        && ({ at_ 8 with dutyPos := BitVec.ofNat 3 k } : Pulse).output true
          == if 1 ≤ k ∧ k ≤ 4 then 15 else 0) = true := by decide +kernel

/-- The mixer to six places. -/
theorem test_apu_mixer :
    (0.149376 < mixPulse 15 0 ∧ mixPulse 15 0 < 0.149378) ∧
    (0.258482 < mixPulse 15 15 ∧ mixPulse 15 15 < 0.258484) ∧
    (0.246411 < mixTnd 15 0 0 ∧ mixTnd 15 0 0 < 0.246413) ∧
    (0.741515 < mixTnd 15 15 127 ∧ mixTnd 15 15 127 < 0.741517) := by
  norm_num [mixPulse, mixTnd]

/-! ## Cartridge, joypads and reset (95 §1, §2.12, §2.13) -/

/-- An iNES header with the given bytes 4 to 7. -/
def header (prg chr f6 f7 : Byte) : List Byte := [0x4E, 0x45, 0x53, 0x1A, prg, chr, f6, f7] ++ List.replicate 8 0

theorem test_parse_errors :
    (match State.load (List.replicate 15 0) State.reset with | .fault .tooShort => true | _ => false) = true ∧
    (match State.load ([0x4E, 0x45, 0x53, 0x00] ++ List.replicate 12 0) State.reset with
      | .fault .badMagic => true | _ => false) = true ∧
    (match State.load (header 1 0 0 0 ++ List.replicate 100 0) State.reset with
      | .fault .truncated => true | _ => false) = true ∧
    (match State.load (header 0 0 0 0) State.reset with
      | .fault (.badSize 0) => true | _ => false) = true := ⟨rfl, rfl, by decide +kernel, by decide +kernel⟩

theorem test_parse_fields :
    (match parseRom (header 0 0 0x18 0x48) 0 with
      | .ok c => c.mapperId == 65 && c.mirroring == .fourScreen && c.headerVariant == 2 && c.chrIsRam
          && c.chrSize == 8192 && !c.battery
      | .error _ => false) = true := by decide +kernel

/-- 95 §1 S7: a 16 KB PRG-ROM is mirrored. -/
theorem test_nrom_mirror : let c := { cartridge with prgSize := 16384 }
    c.mapCpuRead 0xC123 = some 0x0123 ∧ c.mapCpuRead 0xFFFC = some 0x3FFC := by decide +kernel

/-- Bit 0 of `n` reads of a pad, whatever the other bits are drawn as. -/
def readBits (second : Bool) : Nat → Pads → List Bool
  | 0, _ => []
  | n + 1, p => p.readBit second :: readBits second n (p.readEffect second)

/-- 95 §1 S1: A and Start of pad 0 pressed; §2.12: a $4017 write is not a pad write. -/
theorem test_joypad_sequence :
    let pressed := (fresh.setButton false 0 true).setButton false 3 true
    let latched := (writes pressed [(0x4016, 1), (0x4016, 0), (0x4017, 1)]).pads
    readBits false 10 latched = [true, false, false, true, false, false, false, false, true, true] ∧
    readBits true 9 latched = List.replicate 8 false ++ [true] ∧
    readBits false 3 (writes pressed [(0x4016, 1)]).pads = [true, true, true] ∧
    (∀ free, (latched.readValue false free &&& 1) = 1) := by decide +kernel

theorem test_hardReset :
    (match ({ fresh with a := 1, p := Flags.ofByte 0xFF, cycles := 99, nmiPending := true } : State).hardReset with
      | .next t => t.pc == 0x8000 && t.a == 0 && t.sp == 0xFD && t.p.toByte == 0x24 && t.cycles == 7
          && !t.nmiPending && t.ppu.scanline == 0 && t.apu.noise.shift == 1 && t.ram == ⟨.zero, []⟩
      | _ => false) = true := by decide +kernel

/-- 92 D21: what reset leaves unspecified is a canonical memory with nothing listed. -/
theorem test_reset_memories_canonical : State.reset.ram.wf 2048 = true ∧ State.reset.prgRam.wf 8192 = true ∧
    State.reset.ppu.oam.wf 256 = true ∧ State.reset.ppu.palette.wf 32 = true ∧
    State.reset.ppu.ciram.wf 4096 = true := ⟨rfl, rfl, rfl, rfl, rfl⟩

/-! ## Witnesses

Concrete states and operands that meet the hypotheses of each statement of Obligations.lean together, at a
boundary of each clause's range. A statement without a hypothesis has none here. -/

theorem witness_LoadResults :
    ((.imm, 0xA9, 2, false) : Row) ∈ rowsAlu 0xA9 0xA5 0xB5 0xAD 0xBD 0xB9 0xA1 0xB1 ∧
    (AddrMode.imm 0x80).name = .imm ∧
    ((.izy, 0xB1, 5, true) : Row) ∈ rowsAlu 0xA9 0xA5 0xB5 0xAD 0xBD 0xB9 0xA1 0xB1 ∧ (AddrMode.izy 0xFF).name = .izy := by decide +kernel

/-- A row of STA at an address that starts OAM DMA, and one that does not. -/
theorem witness_StoreResults :
    ((.absx, 0x9D, 5, false) : Row) ∈ ([(.absx, 0x9D, 5, false)] : List Row) ∧
    (AddrMode.absx 0x4014).name = .absx ∧ (AddrMode.zp 0x00).name = .zp := by decide +kernel

theorem witness_AddSubtractResults :
    ((.zp, 0x65, 3, false) : Row) ∈ rowsAlu 0x69 0x65 0x75 0x6D 0x7D 0x79 0x61 0x71 ∧
    (AddrMode.zp 0xFF).name = .zp := by decide +kernel

theorem witness_LogicResults :
    ((.izx, 0x21, 6, false) : Row) ∈ rowsAlu 0x29 0x25 0x35 0x2D 0x3D 0x39 0x21 0x31 ∧
    (AddrMode.izx 0xFF).name = .izx ∧ (AddrMode.abs 0x2002).name = .abs := by decide +kernel

theorem witness_CompareResults :
    ((.absy, 0xD9, 4, true) : Row) ∈ rowsAlu 0xC9 0xC5 0xD5 0xCD 0xDD 0xD9 0xC1 0xD1 ∧
    (AddrMode.absy 0xFFFF).name = .absy := by decide +kernel

theorem witness_IncrementMemoryResults :
    ((.absx, 0xFE, 7, false) : Row) ∈ rowsModify 0xE6 0xF6 0xEE 0xFE ∧
    (AddrMode.absx 0x02FF).name = .absx := by decide +kernel

theorem witness_ShiftResults :
    ((.acc, 0x0A, 2, false) : Row) ∈ (.acc, 0x0A, 2, false) :: rowsModify 0x06 0x16 0x0E 0x1E ∧
    AddrMode.acc.name = .acc ∧ ((.zpx, 0x16, 6, false) : Row) ∈ rowsModify 0x06 0x16 0x0E 0x1E ∧
    (AddrMode.zpx 0xFF).name = .zpx := by decide +kernel

theorem witness_ShiftAndLogicResults :
    ((.izy, 0x13, 8, false) : Row) ∈ rowsCombined 0x07 0x17 0x0F 0x1F 0x1B 0x03 0x13 ∧
    (AddrMode.izy 0x10).name = .izy := by decide +kernel

theorem witness_StepAndArithmeticResults :
    ((.zp, 0xE7, 5, false) : Row) ∈ rowsCombined 0xE7 0xF7 0xEF 0xFF 0xFB 0xE3 0xF3 ∧
    (AddrMode.zp 0x10).name = .zp := by decide +kernel

theorem witness_IllegalNopResults :
    (0xFA : Byte) ∈ ([0x1A, 0x3A, 0x5A, 0x7A, 0xDA, 0xFA] : List Byte) ∧
    (0x80 : Byte) ∈ ([0x80, 0x82, 0x89, 0xC2, 0xE2] : List Byte) ∧ (0x64 : Byte) ∈ ([0x04, 0x44, 0x64] : List Byte) ∧
    (0xF4 : Byte) ∈ ([0x14, 0x34, 0x54, 0x74, 0xD4, 0xF4] : List Byte) ∧
    (0x1C : Byte) ∈ ([0x1C, 0x3C, 0x5C, 0x7C, 0xDC, 0xFC] : List Byte) := by decide +kernel

theorem witness_UnimplementedResults :
    (0xF2 : Byte) ∈ opsJam ∧ (0x2B : Byte) ∈ opsAnc ∧ (0x93 : Byte) ∈ opsAhx := by decide +kernel

/-- Each condition of a branch holds in one state and fails in another. -/
theorem witness_BranchResults : let p := State.reset.p
    (!p.n) = true ∧ (!({ p with n := true } : Flags).n) = false ∧ ({ p with n := true } : Flags).n = true ∧ p.n = false ∧
    (!p.v) = true ∧ (!({ p with v := true } : Flags).v) = false ∧ ({ p with v := true } : Flags).v = true ∧ p.v = false ∧
    (!p.c) = true ∧ (!({ p with c := true } : Flags).c) = false ∧ ({ p with c := true } : Flags).c = true ∧ p.c = false ∧
    (!p.z) = true ∧ (!({ p with z := true } : Flags).z) = false ∧ ({ p with z := true } : Flags).z = true ∧ p.z = false := by
  decide +kernel

theorem witness_DecodeEncode : Instr.WellFormed (.lda (.absx 0xFFFF)) ∧ Instr.WellFormed (.nopAbsx 0xFC 0) :=
  ⟨rfl, rfl⟩

/-- The first part; and for the opcode of LDA absolute (three bytes) tails of one and of two bytes. -/
theorem witness_EncodeDecode : decode [0xAD, 0x34, 0x12, 0xEA] = .ok (.lda (.abs 0x1234), [0xEA]) ∧
    opLength 0xAD = 3 ∧ 3 ≤ ([0x34, 0x12] : List Byte).length + 1 ∧ ([0x34] : List Byte).length + 1 < 3 := by
  decide +kernel

theorem witness_PollOrder :
    ({ fresh with nmiPending := true } : State).nmiPending = true ∧
    (({ fresh with irqLine := true, p := Flags.ofByte 0x20 } : State).nmiPending = false ∧
      ({ fresh with irqLine := true, p := Flags.ofByte 0x20 } : State).irqLine = true ∧
      ({ fresh with irqLine := true, p := Flags.ofByte 0x20 } : State).p.i = false) ∧
    (fresh.nmiPending = false ∧ fresh.irqLine = false) ∧
    (({ fresh with irqLine := true } : State).nmiPending = false ∧
      ({ fresh with irqLine := true } : State).p.i = true) := by decide +kernel

/-- Canonical RAM, and a call and a return that go on, at a stack pointer whose two bytes wrap. -/
theorem witness_ReturnsUndoCalls : let s := { fresh with sp := 0x00 }
    s.ram.wf 2048 = true ∧ ∃ t u, exec (.jsr 0x9000) s = .next t ∧ exec .rts t = .next u :=
  ⟨rfl, _, _, rfl, rfl⟩

/-- A well-formed instruction that writes none of the registers and stores outside $4014, and one that
starts OAM DMA. -/
theorem witness_RegisterFrame : Instr.WellFormed (.sta (.abs 0x0200)) ∧ writesA (.sta (.abs 0x0200)) = false ∧
    writesX (.sta (.abs 0x0200)) = false ∧ writesY (.sta (.abs 0x0200)) = false ∧
    writesSP (.sta (.abs 0x0200)) = false ∧ 0x4014#16 ∉ storedTo (.sta (.abs 0x0200)) fresh ∧
    Instr.WellFormed (.sta (.abs 0x4014)) ∧ 0x4014#16 ∈ storedTo (.sta (.abs 0x4014)) fresh := by decide +kernel

theorem witness_FlagFrame : Instr.WellFormed (.stx (.zp 0x10)) ∧ (∃ t, exec (.stx (.zp 0x10)) fresh = .next t) ∧
    writesC (.stx (.zp 0x10)) = false ∧ writesNZ (.stx (.zp 0x10)) = false ∧
    writesV (.stx (.zp 0x10)) = false ∧ writesI (.stx (.zp 0x10)) = false ∧ writesD (.stx (.zp 0x10)) = false :=
  ⟨rfl, ⟨_, rfl⟩, rfl, rfl, rfl, rfl, rfl⟩

/-- A store to the last byte of work RAM: every other clause's addresses lie outside it. -/
theorem witness_MemoryFrame : Instr.WellFormed (.sta (.abs 0x07FF)) ∧
    (∃ t, exec (.sta (.abs 0x07FF)) fresh = .next t) ∧ storedTo (.sta (.abs 0x07FF)) fresh = [0x07FF] ∧
    (0x1FFE : Addr) < 0x2000#16 ∧ (0x07FF : Addr).toNat % 2048 ≠ (0x1FFE : Addr).toNat % 2048 ∧
    (0x07FF : Addr).toNat ≠ 0x6000 + 8191 ∧ ¬ 0x2000#16 ≤ (0x07FF : Addr) ∧ (0x07FF : Addr) ≠ 0x4014#16 :=
  ⟨rfl, ⟨_, rfl⟩, rfl, by decide +kernel⟩

/-- LDA #$80 in work RAM at $0000, with a cartridge and no interrupt. -/
theorem witness_StepRunsDecoded : loaded.cart.isSome = true ∧ loaded.nmiPending = false ∧
    loaded.irqLine = false ∧ (∃ f, readBytes 2 loaded.pc loaded = ([0xA9, 0x80], f)) ∧
    decode [0xA9, 0x80] = .ok (.lda (.imm 0x80), []) ∧ (∃ t, exec (.lda (.imm 0x80)) loaded = .next t) :=
  ⟨rfl, rfl, rfl, ⟨_, rfl⟩, rfl, ⟨_, rfl⟩⟩

theorem witness_StepCompletes : fresh.cart.isSome = true ∧ State.reset.cart = none := ⟨rfl, rfl⟩

/-- The machine with the cartridge meets the invariant. -/
theorem fresh_inv : fresh.Inv where
  ram_wf := rfl
  prgRam_wf := rfl
  ppu := ⟨rfl, rfl, fun _ h => (List.not_mem_nil h).elim, rfl, by decide, by decide, List.length_replicate ..,
    Nat.zero_le _, Nat.zero_le _, Nat.zero_le _⟩
  apu := ⟨by decide, by decide, by decide, by decide, by decide, by decide, by decide, Nat.zero_le _⟩
  cart := fun c h => by
    cases h
    exact ⟨by decide, by decide, by decide +kernel, rfl⟩
  pad0_count := Nat.zero_le _
  pad1_count := Nat.zero_le _

/-- A step from it goes on. -/
theorem fresh_step : ∃ t, step fresh = .next t := ⟨_, step_of_cpuStep rfl (rfl : fresh.cpuStep = .next _)⟩

theorem witness_StepKeepsInv : fresh.Inv ∧ ∃ t, step fresh = .next t := ⟨fresh_inv, fresh_step⟩

theorem witness_StepAdvancesDevices : fresh.ppu.scanline < 262 ∧ fresh.ppu.dot < 341 ∧
    ∃ t, step fresh = .next t := ⟨by decide, by decide, fresh_step⟩

theorem witness_IrqLineFollowsSources : ∃ t, step fresh = .next t := fresh_step

theorem witness_StepKeepsCartridge : (∃ t, step fresh = .next t) ∧ fresh.cart = some cartridge ∧
    ({ cartridge with chrIsRam := false } : Cartridge).chrIsRam = false := ⟨fresh_step, rfl, rfl⟩

theorem witness_NmiRequest : (atDot 261 340 0 []).ppu.scanline < 262 ∧ (atDot 261 340 0 []).ppu.dot < 341 ∧
    (dotIndex (atDot 241 0 0 []).ppu + 1) % 89342 = 82182 ∧ 1 < 2 := by decide +kernel

theorem witness_WorkRam : fresh.ram.wf 2048 = true ∧ (0x1FFF : Addr) < 0x2000#16 ∧ (0x0000 : Addr) < 0x2000#16 ∧
    2047 < 2048 := by decide +kernel

theorem witness_UndrivenAndPrgRam :
    (0x4000#16 ≤ (0x4014 : Addr) ∧ (0x4014 : Addr) < 0x4015#16) ∧
    (0x4018#16 ≤ (0x401F : Addr) ∧ (0x401F : Addr) < 0x4020#16) ∧
    (0x4020#16 ≤ (0x4020 : Addr) ∧ (0x5FFF : Addr) < 0x6000#16) ∧
    (0x6000#16 ≤ (0x6000 : Addr) ∧ (0x6000 : Addr) < 0x8000#16 ∧ 0x6000#16 ≤ (0x7FFF : Addr) ∧
      (0x7FFF : Addr) < 0x8000#16) ∧
    fresh.prgRam.wf 8192 = true ∧ fresh.cart.bind (·.writeRegister 0x6000 0xFF) = none ∧
    fresh.cart.bind (·.readRegister 0x7FFF) = none ∧ 8191 < 8192 :=
  ⟨by decide, by decide, by decide, by decide, rfl, rfl, rfl, by decide⟩

theorem witness_CartridgeWindows : cartridge.mapperId = 0 ∧ fresh.cart = some cartridge ∧
    0x8000#16 ≤ (0xFFFF : Addr) ∧ cartridge.Inv ∧ cartridge.mapCpuRead 0xFFFF = some 0x7FFF ∧
    cartridge.mapPpuRead 0x1FFF = some 0x1FFF ∧ cartridge.mapPpuWrite 0x0000 = some 0 :=
  ⟨rfl, rfl, by decide, fresh_inv.cart cartridge rfl, by decide +kernel, by decide +kernel, by decide +kernel⟩

theorem witness_OamDma : fresh.ppu.oam.wf 256 = true ∧ (0x1F : Byte).toNat < 0x20 ∧ 255 < 256 := by
  decide +kernel

theorem witness_StatusReads : IsVideoRegister 0x2002 2 ∧ IsVideoRegister 0x3FFC 4 ∧ IsVideoRegister 0x2000 0 ∧
    IsVideoRegister 0x3FFE 6 ∧ 6 ∈ [0, 1, 3, 5, 6] := by
  unfold IsVideoRegister
  decide +kernel

/-- Every register, at the first or the last mirror, and both states of the toggle. -/
theorem witness_VideoRegisterWrites : IsVideoRegister 0x2000 0 ∧ IsVideoRegister 0x3FF9 1 ∧ IsVideoRegister 0x2002 2 ∧
    IsVideoRegister 0x3FFB 3 ∧ IsVideoRegister 0x2004 4 ∧ IsVideoRegister 0x3FFD 5 ∧ IsVideoRegister 0x2006 6 ∧
    fresh.ppu.w = false ∧ ({ fresh with ppu := { fresh.ppu with w := true } } : State).ppu.w = true := by
  unfold IsVideoRegister
  decide +kernel

/-- $3EFF, $3F00 and, over CHR-ROM, $1FFF. -/
theorem witness_DataPort : IsVideoRegister 0x3FFF 7 ∧ (BitVec.ofNat 14 (0x3EFF : BitVec 15).toNat).toNat < 0x3F00 ∧
    0x3F00 ≤ (BitVec.ofNat 14 (0x3F00 : BitVec 15).toNat).toNat ∧
    (BitVec.ofNat 14 (0x5FFF : BitVec 15).toNat).toNat < 0x2000 ∧
    ({ cartridge with chrIsRam := false } : Cartridge).chrIsRam = false := by
  unfold IsVideoRegister
  decide +kernel

theorem witness_VideoSpace : fresh.cart = some cartridge ∧ (0x1FFF : BitVec 14).toNat < 0x2000 ∧
    cartridge.mapPpuRead 0x1FFF = some 0x1FFF ∧ cartridge.mapPpuWrite 0x1FFF = some 0x1FFF ∧
    cartridge.chrIsRam = true ∧ ({ cartridge with chrIsRam := false } : Cartridge).chrIsRam = false ∧
    0x2000 ≤ (0x2000 : BitVec 14).toNat ∧ (0x3EFF : BitVec 14).toNat < 0x3F00 ∧
    0x3F00 ≤ (0x3F00 : BitVec 14).toNat :=
  ⟨rfl, by decide, by decide +kernel, by decide +kernel, rfl, rfl, by decide, by decide, by decide⟩

/-- Two mirrors of one entry, and two entries. -/
theorem witness_PaletteMirrors : fresh.ppu.palette.wf 32 = true ∧ 0x3F00 ≤ (0x3F10 : BitVec 14).toNat ∧
    paletteSlot (0x3F10 : BitVec 14).toNat = paletteSlot (0x3FE0 : BitVec 14).toNat ∧
    paletteSlot (0x3F11 : BitVec 14).toNat ≠ paletteSlot (0x3F01 : BitVec 14).toNat := by decide +kernel

theorem witness_DotFlags : (atDot 261 340 0 []).ppu.scanline < 262 ∧ (atDot 261 340 0 []).ppu.dot < 341 ∧
    (atDot 241 1 0 []).ppu.scanline < 262 := by decide +kernel

theorem witness_DotEffects : (atDot 0 0 0 []).ppu.scanline < 240 ∧ (atDot 0 0 0 []).ppu.dot = 0 ∧
    (atDot 261 260 0x18 []).ppu.scanline < 262 ∧ (atDot 261 260 0x18 []).ppu.dot < 341 := by decide +kernel

/-- Indices at the ends of each group; an age with one dot to go, with none, and one that has stopped. -/
theorem witness_OpenBusDecay : let d := Config.openBusDecayDots
    0 < 5 ∧ 4 < 5 ∧ 6 ≤ 6 ∧ 6 ≤ 7 ∧ (d - 2) + 1 < d ∧ ¬ ((d - 1) + 1 < d ∨ d ≤ d - 1) ∧ d ≤ d := by
  have : 89342 ≤ Config.openBusDecayDots := Nat.le_add_right _ _
  intro d
  omega

/-- The first and the last channel register, and the two that are none. -/
theorem witness_AudioControl : 0x00 < 0x14 ∧ 0x13 < 0x14 ∧ 0x09 < 0x14 ∧ 0x0D < 0x14 := by decide

theorem witness_FrameOutput : fresh.ppu.snap.length = 240 ∧
    ∀ snap ∈ fresh.ppu.snap, snap.mask.getLsbD 3 = false ∧ snap.mask.getLsbD 4 = false := by
  refine ⟨List.length_replicate .., fun snap h => ?_⟩
  rw [List.eq_of_mem_replicate (show snap ∈ List.replicate 240 (⟨0, 0, 0, 0, none⟩ : Snapshot) from h)]
  exact ⟨rfl, rfl⟩

theorem witness_FrameIrqTiming : (⟨false, false, 29829⟩ : FrameSequencer).counter < 29830 ∧
    (29829 + 29829 + 1) % 29830 = 29829 - 0 := by decide +kernel

theorem witness_LengthCounters :
    ({ Pulse.reset with halt := true, length := 254 } : Pulse).halt = true ∧
    ({ Apu.reset.tri with control := true } : Triangle).control = true ∧
    ({ Apu.reset.noise with halt := true } : Noise).halt = true := by decide +kernel

/-- A full buffer; none left; two left; the last byte with and without the loop, at $FFFF. -/
theorem witness_DeltaFetch :
    ({ Apu.reset.dmc with buffer := some 0 } : Dmc).buffer ≠ none ∧ Apu.reset.dmc.remaining = 0 ∧
    Apu.reset.dmc.buffer = none ∧ 1 < ({ Apu.reset.dmc with remaining := 2 } : Dmc).remaining.toNat ∧
    ({ Apu.reset.dmc with remaining := 1, loop := true, curAddr := 0xFFFF } : Dmc).remaining = 1 ∧
    ({ Apu.reset.dmc with remaining := 1, loop := true, curAddr := 0xFFFF } : Dmc).loop = true ∧
    ({ Apu.reset.dmc with remaining := 1 } : Dmc).loop = false := by decide +kernel

theorem witness_ParseErrors : (List.replicate 15 (0 : Byte)).length < 16 ∧
    (16 ≤ (List.replicate 16 (0 : Byte)).length ∧ (List.replicate 16 (0 : Byte)).take 4 ≠ magic) ∧
    (16 ≤ (header 0 1 0 0).length ∧ (header 0 1 0 0).take 4 = magic ∧
      (header 0 1 0 0).length < prgOffset (header 0 1 0 0) + prgBytes (header 0 1 0 0) + chrBytes (header 0 1 0 0)) ∧
    (16 ≤ (header 0 0 0 0).length ∧ (header 0 0 0 0).take 4 = magic ∧
      prgOffset (header 0 0 0 0) + prgBytes (header 0 0 0 0) + chrBytes (header 0 0 0 0)
        ≤ (header 0 0 0 0).length) := by decide +kernel

/-- An image of one PRG bank and no CHR bank, exactly long enough, and one of no PRG bank. -/
theorem witness_LoadBoots : let image := header 1 0 0 0 ++ List.replicate 16384 0
    (16 ≤ image.length ∧ image.take 4 = magic ∧
      prgOffset image + prgBytes image + chrBytes image ≤ image.length ∧
      (image.getD 6 0).toNat / 16 = 0 ∧ (image.getD 7 0).toNat / 16 = 0 ∧ prgBytes image ≠ 0) ∧
    (prgOffset (header 0 0 0 0) + prgBytes (header 0 0 0 0) + chrBytes (header 0 0 0 0)
      ≤ (header 0 0 0 0).length ∧ prgBytes (header 0 0 0 0) = 0) := by
  have hl : (header 1 0 0 0 ++ List.replicate 16384 (0 : Byte)).length = 16400 := by
    rw [List.length_append, List.length_replicate]
    rfl
  refine ⟨⟨?_, ?_, ?_, ?_⟩, by decide +kernel⟩
  · rw [hl]; decide
  · decide +kernel
  · rw [hl]; decide +kernel
  · decide +kernel

theorem witness_HardReset : fresh.cart = some cartridge ∧ cartridge.mapperId = 0 ∧
    ({ cartridge with chrIsRam := false } : Cartridge).chrIsRam = false ∧ State.reset.cart = none :=
  ⟨rfl, rfl, rfl, rfl⟩

theorem witness_JoypadSequence : (0xFF : Byte).getLsbD 0 = true ∧ (0xFE : Byte).getLsbD 0 = false ∧ 7 < 8 ∧ ¬ 8 < 8 := by
  decide +kernel

/-- A reset that goes on, and a machine in phase whose step goes on. -/
theorem witness_ClockPhase : let s := { fresh with cycles := 7 }
    (∃ t, fresh.hardReset = .next t) ∧
    (s.ppu.scanline < 262 ∧ s.ppu.dot < 341 ∧ 7 ≤ s.cycles ∧
      dotIndex s.ppu = 3 * (s.cycles - 7) % 89342 ∧ s.apu.apuCycles = s.cycles - 7 ∧ ∃ t, step s = .next t) :=
  ⟨⟨_, rfl⟩, by decide, by decide, by decide, by decide, by decide,
    _, step_of_cpuStep rfl (rfl : ({ fresh with cycles := 7 } : State).cpuStep = .next _)⟩

end Sys2Proof.Tests
end

/-! ## Frames over all instructions (O28, O29)

A meaning is a chain of named operations. `Kept` says that a stretch of such a chain wrote only what the
instruction is listed to write; there is one lemma for each operation, and a meaning's own lemma chains
them. `CostBounds` follows from the one use the meaning makes of its operand. -/

namespace Sys2Proof.Machine

open Sys2Proof.Ref

/-! ### What an instruction may change of the processor -/

/-- From `s` to `t` only those registers and flags changed that `i` is listed to write, and neither the
latched NMI nor the IRQ line did (10 R31, R32, R35–R38, R41, R42, R45, R46). -/
structure Kept (i : Instr) (s t : State) : Prop where
  a : writesA i = false → t.a = s.a
  x : writesX i = false → t.x = s.x
  y : writesY i = false → t.y = s.y
  sp : writesSP i = false → t.sp = s.sp
  c : writesC i = false → t.p.c = s.p.c
  nz : writesNZ i = false → t.p.z = s.p.z ∧ t.p.n = s.p.n
  v : writesV i = false → t.p.v = s.p.v
  d : writesD i = false → t.p.d = s.p.d
  i : writesI i = false → t.p.i = s.p.i
  nmiPending : t.nmiPending = s.nmiPending
  irqLine : t.irqLine = s.irqLine

theorem Kept.refl (i : Instr) (s : State) : Kept i s s :=
  ⟨fun _ => rfl, fun _ => rfl, fun _ => rfl, fun _ => rfl, fun _ => rfl, fun _ => ⟨rfl, rfl⟩, fun _ => rfl,
    fun _ => rfl, fun _ => rfl, rfl, rfl⟩

section Updates

/-! One lemma for each operation a meaning is composed of: what the operation changes, the instruction
must be listed to write. -/

variable {i : Instr} {s t : State} (h : Kept i s t)
include h

theorem Kept.charge (n : Nat) : Kept i s (t.charge n) := { h with }

theorem Kept.advance (n : Nat) : Kept i s (t.advance n) := { h with }

theorem Kept.jump (target : Addr) : Kept i s (t.jump target) := { h with }

theorem Kept.implied (n : Nat) : Kept i s (t.implied n) := { h with }

theorem Kept.setA (ha : writesA i = true) (v : Byte) : Kept i s { t with a := v } :=
  { h with a := by simp [ha] }

theorem Kept.setX (hx : writesX i = true) (v : Byte) : Kept i s { t with x := v } :=
  { h with x := by simp [hx] }

theorem Kept.setY (hy : writesY i = true) (v : Byte) : Kept i s { t with y := v } :=
  { h with y := by simp [hy] }

theorem Kept.setSP (hsp : writesSP i = true) (v : Byte) : Kept i s { t with sp := v } :=
  { h with sp := by simp [hsp] }

theorem Kept.setNZ (hnz : writesNZ i = true) (v : Byte) : Kept i s (t.setNZ v) :=
  { h with nz := by simp [hnz] }

theorem Kept.setC (hc : writesC i = true) (b : Bool) : Kept i s (t.setC b) :=
  { h with c := by simp [hc] }

theorem Kept.setV (hv : writesV i = true) (b : Bool) : Kept i s { t with p := { t.p with v := b } } :=
  { h with v := by simp [hv] }

theorem Kept.setI (hi : writesI i = true) (b : Bool) : Kept i s { t with p := { t.p with i := b } } :=
  { h with i := by simp [hi] }

theorem Kept.setD (hd : writesD i = true) (b : Bool) : Kept i s { t with p := { t.p with d := b } } :=
  { h with d := by simp [hd] }

theorem Kept.setP (hc : writesC i = true) (hnz : writesNZ i = true) (hv : writesV i = true)
    (hi : writesI i = true) (hd : writesD i = true) (p : Flags) : Kept i s { t with p := p } :=
  { h with
    c := by simp [hc]
    nz := by simp [hnz]
    v := by simp [hv]
    i := by simp [hi]
    d := by simp [hd] }

theorem Kept.loadA (ha : writesA i = true) (hnz : writesNZ i = true) (v : Byte) : Kept i s (t.loadA v) :=
  (h.setA ha v).setNZ hnz v

theorem Kept.loadX (hx : writesX i = true) (hnz : writesNZ i = true) (v : Byte) : Kept i s (t.loadX v) :=
  (h.setX hx v).setNZ hnz v

theorem Kept.loadY (hy : writesY i = true) (hnz : writesNZ i = true) (v : Byte) : Kept i s (t.loadY v) :=
  (h.setY hy v).setNZ hnz v

theorem Kept.addC (ha : writesA i = true) (hc : writesC i = true) (hnz : writesNZ i = true)
    (hv : writesV i = true) (m : Byte) : Kept i s (t.addC m) :=
  { h with
    a := by simp [ha]
    c := by simp [hc]
    nz := by simp [hnz]
    v := by simp [hv] }

theorem Kept.compare (hc : writesC i = true) (hnz : writesNZ i = true) (r m : Byte) :
    Kept i s (t.compare r m) :=
  { h with
    c := by simp [hc]
    nz := by simp [hnz] }

theorem Kept.bitTest (hnz : writesNZ i = true) (hv : writesV i = true) (m : Byte) : Kept i s (t.bitTest m) :=
  { h with
    nz := by simp [hnz]
    v := by simp [hv] }

/-- A machine with the processor of `t`, up to the cycle counter, serves as well as `t`. -/
theorem Kept.of_withCpu {u : State} {n : Nat} (hu : u = u.withCpu { t with cycles := n }) : Kept i s u := by
  rw [hu]
  exact { h with }

theorem Kept.memRead (a : Addr) : Kept i s (t.memRead a).2 := h.of_withCpu (t.memRead_state a)

theorem Kept.read16 (a : Addr) : Kept i s (t.read16 a).2 := (h.memRead a).memRead (a + 1)

theorem Kept.locate (m : AddrMode) : Kept i s (t.locate m).state := h.of_withCpu (t.locate_state m)

theorem Kept.memWrite (a : Addr) (v : Byte) : Kept i s (t.memWrite a v) :=
  h.of_withCpu (n := (t.memWrite a v).cycles) (by apply State.eq_withCpu <;> simp)

theorem Kept.push (hsp : writesSP i = true) (v : Byte) : Kept i s (t.push v) :=
  (h.memWrite t.stackAddr v).setSP hsp _

theorem Kept.push16 (hsp : writesSP i = true) (w : Addr) : Kept i s (t.push16 w) :=
  (h.push hsp _).push hsp _

theorem Kept.pull (hsp : writesSP i = true) : Kept i s t.pull.2 := (h.setSP hsp _).memRead _

theorem Kept.pull16 (hsp : writesSP i = true) : Kept i s t.pull16.2 := (h.pull hsp).pull hsp

theorem Kept.interrupt (hsp : writesSP i = true) (hi : writesI i = true) (ret vector : Addr) (b : Bool) :
    Kept i s (t.interrupt ret vector b) :=
  ((((h.push16 hsp ret).push hsp _).setI hi true).read16 vector).jump _

theorem Kept.branch (cond : Bool) (off : Byte) : Kept i s (t.branch cond off) := by
  cases cond
  case false => exact (h.charge _).jump _
  case true => exact (h.charge _).jump _

theorem Kept.readOperand (m : AddrMode) : Kept i s (t.readOperand m).2 := by
  cases m
  case acc => exact (h.charge _).advance _
  case imm => exact (h.charge _).advance _
  all_goals exact (((h.locate _).charge _).memRead _).advance _

theorem Kept.storeOperand (m : AddrMode) (v : Byte) : Kept i s (t.storeOperand m v) :=
  (((h.locate m).charge _).memWrite _ v).advance _

/-- Modifying the accumulator is the one operand use that writes a register. -/
theorem Kept.modifyOperand {m : AddrMode} (ha : m = .acc → writesA i = true) (f : Byte → Byte) :
    Kept i s (t.modifyOperand m f).state := by
  cases m
  case acc => exact ((h.setA (ha rfl) _).charge _).advance _
  all_goals exact ((((h.locate _).charge _).memRead _).memWrite _ _).advance _

end Updates

/-- An operand form among modes without the accumulator is not the accumulator. -/
theorem ne_acc_of_isIn {m : AddrMode} {ms : List ModeName} (h : m.isIn ms = true)
    (hms : ms.contains .acc = false) : m ≠ .acc := by
  rintro rfl
  exact absurd (hms.symm.trans h) (by decide)

/-- Every meaning is composed of operations that write what its instruction is listed to write. -/
theorem exec_kept {i : Instr} {s t : State} (wf : i.WellFormed) (ht : exec i s = .next t) : Kept i s t := by
  have h := Kept.refl i s
  cases i with
  | lda m | and m | ora m | eor m => cases ht; exact (h.readOperand m).loadA rfl rfl _
  | ldx m => cases ht; exact (h.readOperand m).loadX rfl rfl _
  | ldy m => cases ht; exact (h.readOperand m).loadY rfl rfl _
  | lax m => cases ht; exact ((h.readOperand m).setA rfl _).loadX rfl rfl _
  | adc m | sbc m => cases ht; exact (h.readOperand m).addC rfl rfl rfl rfl _
  | sbcEB v => cases ht; exact (h.readOperand (.imm v)).addC rfl rfl rfl rfl _
  | bit m => cases ht; exact (h.readOperand m).bitTest rfl rfl _
  | cmp m | cpx m | cpy m => cases ht; exact (h.readOperand m).compare rfl rfl _ _
  | nopImm op v => cases ht; exact h.readOperand (.imm v)
  | nopZp op a => cases ht; exact h.readOperand (.zp a)
  | nopZpx op a => cases ht; exact h.readOperand (.zpx a)
  | nopAbs a => cases ht; exact h.readOperand (.abs a)
  | nopAbsx op a => cases ht; exact h.readOperand (.absx a)
  | sta m | stx m | sty m | sax m => cases ht; exact h.storeOperand m _
  | inc m | dec m =>
    cases ht
    exact (h.modifyOperand (fun e => absurd e (ne_acc_of_isIn wf rfl)) _).setNZ rfl _
  | dcp m => cases ht; exact (h.modifyOperand (fun e => absurd e (ne_acc_of_isIn wf rfl)) _).compare rfl rfl _ _
  | asl m | lsr m | rol m | ror m =>
    cases ht
    exact ((h.modifyOperand (fun e => by rw [e]; rfl) _).setC rfl _).setNZ rfl _
  | slo m | rla m | sre m =>
    cases ht
    exact ((h.modifyOperand (fun _ => rfl) _).setC rfl _).loadA rfl rfl _
  | rra m => cases ht; exact ((h.modifyOperand (fun _ => rfl) _).setC rfl _).addC rfl rfl rfl rfl _
  | isb m => cases ht; exact (h.modifyOperand (fun _ => rfl) _).addC rfl rfl rfl rfl _
  | txa | tya => cases ht; exact (h.loadA rfl rfl _).implied 2
  | tax | tsx | inx | dex => cases ht; exact (h.loadX rfl rfl _).implied 2
  | tay | iny | dey => cases ht; exact (h.loadY rfl rfl _).implied 2
  | txs => cases ht; exact (h.setSP rfl _).implied 2
  | clc | sec => cases ht; exact (h.setC rfl _).implied 2
  | cli | sei => cases ht; exact (h.setI rfl _).implied 2
  | clv => cases ht; exact (h.setV rfl _).implied 2
  | cld | sed => cases ht; exact (h.setD rfl _).implied 2
  | nop | nopImp _ | jam _ | anc _ | alr | arr | xaa | lxa | axs | ahx _ | tas | shy | shx | las =>
    cases ht; exact h.implied 2
  | pha | php => cases ht; exact (h.push rfl _).implied 3
  | pla => cases ht; exact ((h.pull rfl).loadA rfl rfl _).implied 4
  | plp => cases ht; exact ((h.pull rfl).setP rfl rfl rfl rfl rfl _).implied 4
  | jmp m => cases ht; exact ((h.locate m).charge _).jump _
  | jsr target => cases ht; exact ((h.push16 rfl _).charge 6).jump target
  | rts => cases ht; exact ((h.pull16 rfl).charge 6).jump _
  | rti =>
    cases ht
    exact ((((h.pull rfl).setP rfl rfl rfl rfl rfl _).pull16 rfl).jump _).charge 6
  | brk => cases ht; exact (h.interrupt rfl rfl _ _ true).charge 7
  | bpl off | bmi off | bvc off | bvs off | bcc off | bcs off | bne off | beq off =>
    cases ht; exact h.branch _ off

/-! ### What an instruction costs -/

theorem readCycles_bounds (m : AddrMode) : 2 ≤ readCycles m ∧ readCycles m ≤ 6 := by
  cases m <;> simp [readCycles]

theorem storeCycles_bounds (m : AddrMode) : 2 ≤ storeCycles m ∧ storeCycles m ≤ 6 := by
  cases m <;> simp [storeCycles]

theorem modifyCycles_bounds (m : AddrMode) : 2 ≤ modifyCycles m ∧ modifyCycles m ≤ 8 := by
  cases m <;> simp [modifyCycles]

/-- A store costs its base cycles and those of the OAM DMA it starts (20 R87). -/
theorem State.storeOperand_cycles (s : State) (m : AddrMode) (v : Byte) :
    (s.storeOperand m v).cycles
      = s.cycles + storeCycles m + dmaCycles (s.locate m).ea (s.cycles + storeCycles m) := by
  rw [State.storeOperand_eq, dmaCycles]
  split_ifs
  · exact Nat.add_assoc _ _ _
  · rfl

/-- Modifying memory costs its base cycles and those of the OAM DMA it starts (20 R87). -/
theorem State.modifyOperand_cycles (s : State) {m : AddrMode} (hm : m ≠ .acc) (f : Byte → Byte) :
    (s.modifyOperand m f).state.cycles
      = s.cycles + modifyCycles m + dmaCycles (s.locate m).ea (s.cycles + modifyCycles m) := by
  simp only [State.modifyOperand_eq s hm, dmaCycles]
  split_ifs
  · exact Nat.add_assoc _ _ _
  · rfl

/-- The elapsed cycles of `i` from `s` to `t` (60 R423): 2 to 8, or at most 522 where it stores to $4014. -/
structure CostBounds (i : Instr) (s t : State) : Prop where
  least : s.cycles + 2 ≤ t.cycles
  most : 0x4014#16 ∉ storedTo i s → t.cycles ≤ s.cycles + 8
  mostDma : t.cycles ≤ s.cycles + 522

section Costs

variable {i : Instr} {s t : State}

theorem CostBounds.of_cost {n : Nat} (ht : t.cycles = s.cycles + n) (hn : 2 ≤ n ∧ n ≤ 8) : CostBounds i s t :=
  ⟨by omega, fun _ => by omega, by omega⟩

/-- A base cost and the OAM DMA of a store to `ea`. -/
theorem CostBounds.of_dmaCost {n : Nat} {ea : Addr} (hea : storedTo i s = [ea])
    (ht : t.cycles = s.cycles + n + dmaCycles ea (s.cycles + n)) (hn : 2 ≤ n ∧ n ≤ 8) : CostBounds i s t := by
  by_cases hdma : ea = 0x4014#16
  · rw [dmaCycles, if_pos hdma] at ht
    exact ⟨by omega, fun h => absurd (by simp [hea, hdma]) h, by omega⟩
  · rw [dmaCycles, if_neg hdma] at ht
    exact .of_cost ht hn

theorem CostBounds.of_read {m : AddrMode} (ht : t.cycles = (s.readOperand m).2.cycles) : CostBounds i s t := by
  have hm := readCycles_bounds m
  have hx := Bool.toNat_le (s.locate m).cross
  rw [State.readOperand_eq] at ht
  exact .of_cost ht (by omega)

theorem CostBounds.of_store {m : AddrMode} {v : Byte} (hea : storedTo i s = [(s.locate m).ea])
    (ht : t.cycles = (s.storeOperand m v).cycles) : CostBounds i s t := by
  have hm := storeCycles_bounds m
  exact .of_dmaCost hea (ht.trans (s.storeOperand_cycles m v)) (by omega)

theorem CostBounds.of_modify {m : AddrMode} {f : Byte → Byte} (hea : m ≠ .acc → storedTo i s = [(s.locate m).ea])
    (ht : t.cycles = (s.modifyOperand m f).state.cycles) : CostBounds i s t := by
  by_cases hm : m = .acc
  · subst hm
    exact .of_cost ht (by decide)
  · exact .of_dmaCost (hea hm) (ht.trans (s.modifyOperand_cycles hm f)) (modifyCycles_bounds m)

theorem CostBounds.of_branch {cond : Bool} {off : Byte} (ht : t.cycles = (s.branch cond off).cycles) :
    CostBounds i s t := by
  cases cond
  case false => exact .of_cost ht (by decide)
  case true =>
    have hx := Bool.toNat_le (pageCross (s.pc + 2) (s.pc + 2 + off.signExtend 16))
    exact .of_cost ht (by omega)

end Costs

theorem State.interrupt_cycles (s : State) (ret vector : Addr) (b : Bool) :
    (s.interrupt ret vector b).cycles = s.cycles := by
  rw [State.interrupt_eq]
  exact State.read16_cycles _ _

/-- The cost of a meaning is that of its one use of an operand, or a constant. -/
theorem exec_costBounds {i : Instr} {s t : State} (ht : exec i s = .next t) : CostBounds i s t := by
  cases i with
  | lda m | ldx m | ldy m | lax m | adc m | sbc m | and m | ora m | eor m | bit m | cmp m | cpx m | cpy m =>
    cases ht; exact .of_read (m := m) rfl
  | sbcEB v | nopImm _ v => cases ht; exact .of_read (m := .imm v) rfl
  | nopZp _ a => cases ht; exact .of_read (m := .zp a) rfl
  | nopZpx _ a => cases ht; exact .of_read (m := .zpx a) rfl
  | nopAbs a => cases ht; exact .of_read (m := .abs a) rfl
  | nopAbsx _ a => cases ht; exact .of_read (m := .absx a) rfl
  | sta m | stx m | sty m | sax m => cases ht; exact .of_store (m := m) rfl rfl
  | inc m | dec m | slo m | rla m | sre m | rra m | dcp m | isb m =>
    cases ht; exact .of_modify (m := m) (fun _ => rfl) rfl
  | asl m | lsr m | rol m | ror m =>
    cases ht; exact .of_modify (m := m) (fun hm => if_neg hm) rfl
  | bpl off | bmi off | bvc off | bvs off | bcc off | bcs off | bne off | beq off =>
    cases ht; exact .of_branch (off := off) rfl
  | tax | tay | txa | tya | tsx | txs | inx | iny | dex | dey | clc | sec | cli | sei | clv | cld | sed | nop
  | nopImp _ | jam _ | anc _ | alr | arr | xaa | lxa | axs | ahx _ | tas | shy | shx | las =>
    cases ht; exact .of_cost (n := 2) rfl (by decide)
  | pha | php => cases ht; exact .of_cost (n := 3) (by simp [State.push_eq]) (by decide)
  | pla | plp => cases ht; exact .of_cost (n := 4) (by simp [State.pull_eq]) (by decide)
  | jmp m =>
    cases ht
    refine .of_cost (congrArg (· + _) (s.locate_cycles m)) ?_
    cases m <;> simp
  | jsr target => cases ht; exact .of_cost (n := 6) (by simp [State.push16_eq]) (by decide)
  | rts => cases ht; exact .of_cost (n := 6) (by simp [State.pull16_eq]) (by decide)
  | rti => cases ht; exact .of_cost (n := 6) (by simp [State.returnFromInterrupt_eq]) (by decide)
  | brk => cases ht; exact .of_cost (n := 7) (by simp [State.interrupt_cycles]) (by decide)

/-- No instruction ends in a fault or a refusal under the policy `nop2` (log 5). -/
theorem exec_completes (i : Instr) (s : State) : ∃ t, exec i s = .next t := by
  cases i <;> exact ⟨_, rfl⟩

/-- Settles O28: no operation of a meaning writes a register its instruction is not listed for, and its
cost is that of its one operand use, with at most one OAM DMA. -/
theorem registerFrame : Obligations.RegisterFrame := by
  intro i s wf
  obtain ⟨t, ht⟩ := exec_completes i s
  have hkept := exec_kept wf ht
  have hcost := exec_costBounds ht
  exact ⟨t, ht, hkept.a, hkept.x, hkept.y, hkept.sp, hkept.nmiPending, hkept.irqLine, hcost.least, hcost.most,
    hcost.mostDma⟩

/-- Settles O29: no operation of a meaning writes a flag its instruction is not listed for. -/
theorem flagFrame : Obligations.FlagFrame := by
  intro i s t wf ht
  have hkept := exec_kept wf ht
  exact ⟨hkept.c, hkept.nz, hkept.v, hkept.i, hkept.d⟩

end Sys2Proof.Machine

/-! ## Memory and the bus (O30, O39, O40, O42) -/

namespace Sys2Proof.Machine

open Sys2Proof.Ref

/-! ### The rows of the bus map (20 R74) that the statements name -/

theorem State.memRead_undriven (s : State) {a : Addr}
    (h : (0x4000#16 ≤ a ∧ a < 0x4015#16) ∨ (0x4018#16 ≤ a ∧ a < 0x4020#16)) : s.memRead a = s.draw := by
  unfold State.memRead
  rw [if_neg (by bv_omega), if_neg (by bv_omega)]
  rcases h with ⟨-, hi⟩ | ⟨lo, hi⟩
  · rw [if_pos hi]
  · rw [if_neg (by bv_omega), if_neg (by bv_omega), if_neg (by bv_omega), if_neg (by bv_omega), if_pos hi]

theorem State.memRead_expansion (s : State) {a : Addr} (lo : 0x4020#16 ≤ a) (hi : a < 0x6000#16) :
    s.memRead a = s.hookedRead a s.draw := by
  unfold State.memRead
  rw [if_neg (by bv_omega), if_neg (by bv_omega), if_neg (by bv_omega), if_neg (by bv_omega),
    if_neg (by bv_omega), if_neg (by bv_omega), if_neg (by bv_omega), if_pos hi]

theorem State.memRead_prgRamWindow (s : State) {a : Addr} (lo : 0x6000#16 ≤ a) (hi : a < 0x8000#16) :
    s.memRead a = s.hookedRead a (s.prgRam.read (prgRamIndex a), s) := by
  unfold State.memRead
  rw [if_neg (by bv_omega), if_neg (by bv_omega), if_neg (by bv_omega), if_neg (by bv_omega),
    if_neg (by bv_omega), if_neg (by bv_omega), if_neg (by bv_omega), if_neg (by bv_omega), if_pos hi]

theorem State.memWrite_undriven (s : State) {a : Addr} (lo : 0x4018#16 ≤ a) (hi : a < 0x4020#16) (v : Byte) :
    s.memWrite a v = s := by
  unfold State.memWrite
  rw [if_neg (by bv_omega), if_neg (by bv_omega), if_neg (by bv_omega), if_neg (by bv_omega),
    if_neg (by bv_omega), if_pos hi]

theorem State.memWrite_expansion (s : State) {a : Addr} (lo : 0x4020#16 ≤ a) (hi : a < 0x6000#16) (v : Byte) :
    s.memWrite a v = s.hookedWrite a v s := by
  unfold State.memWrite
  rw [if_neg (by bv_omega), if_neg (by bv_omega), if_neg (by bv_omega), if_neg (by bv_omega),
    if_neg (by bv_omega), if_neg (by bv_omega), if_pos hi]

theorem State.memWrite_prgRamWindow (s : State) {a : Addr} (lo : 0x6000#16 ≤ a) (hi : a < 0x8000#16) (v : Byte) :
    s.memWrite a v = s.hookedWrite a v { s with prgRam := s.prgRam.write (prgRamIndex a) v } := by
  unfold State.memWrite
  rw [if_neg (by bv_omega), if_neg (by bv_omega), if_neg (by bv_omega), if_neg (by bv_omega),
    if_neg (by bv_omega), if_neg (by bv_omega), if_neg (by bv_omega), if_pos hi]

theorem State.hookedRead_unclaimed {s : State} {a : Addr} (h : s.cart.bind (·.readRegister a) = none)
    (r : Byte × State) : s.hookedRead a r = r := by
  rw [State.hookedRead, h]

theorem State.hookedWrite_unclaimed {s : State} {a : Addr} {v : Byte}
    (h : s.cart.bind (·.writeRegister a v) = none) (t : State) : s.hookedWrite a v t = t := by
  rw [State.hookedWrite, h]

/-- A read of a canonical memory after a write. -/
theorem Memory.read_write {size : Nat} {m : Memory} (h : m.wf size = true) (a b : Nat) (v : Byte) :
    (m.write a v).read b = if a = b then v else m.read b := by
  split_ifs with hab
  · rw [← hab, Memory.read_write_same h]
  · exact Memory.read_write_ne hab v

/-- Every byte of a memory with nothing listed over the zero fill is zero. -/
theorem Memory.read_empty (k : Nat) : (Memory.mk .zero []).read k = 0 := rfl

/-! ### Work RAM and PRG-RAM -/

/-- Settles O39: the work RAM rows of the bus map, with the memory's read after write. -/
theorem workRam : Obligations.WorkRam := by
  refine ⟨fun s a ha => ⟨s.memRead_workRam ha, s.memWrite_workRam ha⟩, fun s a b v wf ha hb => ?_,
    fun k _ => Memory.read_empty k⟩
  rw [s.memWrite_workRam ha, State.memRead_workRam _ hb, s.memRead_workRam hb]
  exact Memory.read_write wf _ _ v

theorem prgRamIndex_inj {a b : Addr} (ha : 0x6000#16 ≤ a) (hb : 0x6000#16 ≤ b) :
    prgRamIndex a = prgRamIndex b ↔ a = b := by
  unfold prgRamIndex
  constructor <;> intro h <;> bv_omega

/-- Where no mapper claims them, PRG-RAM's addresses read after write (20 R80). -/
theorem State.prgRam_read_write {s : State} {a b : Addr} {v : Byte} (wf : s.prgRam.wf 8192 = true)
    (ha : 0x6000#16 ≤ a) (ha' : a < 0x8000#16) (hb : 0x6000#16 ≤ b) (hb' : b < 0x8000#16)
    (hw : s.cart.bind (·.writeRegister a v) = none) (hr : s.cart.bind (·.readRegister b) = none) :
    ((s.memWrite a v).memRead b).1 = if a = b then v else (s.memRead b).1 := by
  have write : s.memWrite a v = { s with prgRam := s.prgRam.write (prgRamIndex a) v } := by
    rw [s.memWrite_prgRamWindow ha ha', State.hookedWrite_unclaimed hw]
  have read (m : Memory) : (State.memRead { s with prgRam := m } b).1 = m.read (prgRamIndex b) := by
    rw [State.memRead_prgRamWindow _ hb hb']
    exact congrArg Prod.fst (State.hookedRead_unclaimed (s := { s with prgRam := m }) hr _)
  rw [write, read, read s.prgRam, Memory.read_write wf]
  simp only [prgRamIndex_inj ha hb]

/-- Settles O40: the undriven rows and the two cartridge windows of the bus map. -/
theorem undrivenAndPrgRam : Obligations.UndrivenAndPrgRam :=
  ⟨fun s _ h => s.memRead_undriven h,
    fun s _ v lo hi => s.memWrite_undriven lo hi v,
    fun s _ lo hi => ⟨s.memRead_expansion lo hi, s.memWrite_expansion lo hi⟩,
    fun s _ lo hi => ⟨s.memRead_prgRamWindow lo hi, s.memWrite_prgRamWindow lo hi⟩,
    fun _ _ _ _ wf ha ha' hb hb' hw hr => State.prgRam_read_write wf ha ha' hb hb' hw hr,
    fun k _ => Memory.read_empty k⟩

/-! ### OAM DMA (20 R87) -/

theorem State.dmaCopy_add (page : Byte) (m n i : Nat) (s : State) :
    s.dmaCopy page (m + n) i = (s.dmaCopy page m i).dmaCopy page n (i + m) := by
  induction m generalizing i s with
  | zero => rw [Nat.zero_add]; rfl
  | succ m ih =>
    rw [Nat.succ_add, State.dmaCopy, State.dmaCopy, ih, Nat.add_right_comm, Nat.add_assoc]

theorem State.dmaCopy_oamAddr (page : Byte) (n i : Nat) (s : State) :
    (s.dmaCopy page n i).ppu.oamAddr = s.ppu.oamAddr := by
  obtain ⟨o, d, e⟩ := s.dmaCopy_frame page n i
  rw [e]

theorem State.dmaCopy_ram (page : Byte) (n i : Nat) (s : State) : (s.dmaCopy page n i).ram = s.ram := by
  obtain ⟨o, d, e⟩ := s.dmaCopy_frame page n i
  rw [e]

theorem State.dmaCopy_oam_wf (page : Byte) (n i : Nat) (s : State) (h : s.ppu.oam.wf 256 = true) :
    (s.dmaCopy page n i).ppu.oam.wf 256 = true := by
  induction n generalizing i s with
  | zero => exact h
  | succ n ih => exact ih (i + 1) _ (Memory.write_wf h (Nat.mod_lt _ (by decide)) _)

/-- The copy leaves an OAM byte that none of its turns stores to. -/
theorem State.dmaCopy_oam_read_ne (page : Byte) (n i j : Nat) (s : State)
    (h : ∀ k, i ≤ k → k < i + n → (s.ppu.oamAddr.toNat + k) % 256 ≠ j) :
    (s.dmaCopy page n i).ppu.oam.read j = s.ppu.oam.read j := by
  induction n generalizing i s with
  | zero => rfl
  | succ n ih =>
    rw [State.dmaCopy, ih]
    · exact Memory.read_write_ne (h i le_rfl (by omega)) _
    · exact fun k lo hi => h k (by omega) (by omega)

/-- The address of byte `k` of a page. -/
theorem wordOf_ofNat {k : Nat} (hk : k < 256) (page : Byte) :
    wordOf (BitVec.ofNat 8 k) page = BitVec.ofNat 16 (256 * page.toNat + k) := by
  have := page.isLt
  apply BitVec.eq_of_toNat_eq
  rw [wordOf_toNat, BitVec.toNat_ofNat, BitVec.toNat_ofNat]
  omega

/-- The byte of turn `k` is the `Peek` at that turn, and no later turn stores over it. -/
theorem State.dmaCopy_oam_read {s : State} (page : Byte) (wf : s.ppu.oam.wf 256 = true) {k : Nat} (hk : k < 256) :
    (s.dmaCopy page 256 0).ppu.oam.read ((s.ppu.oamAddr.toNat + k) % 256) =
      ((s.dmaCopy page k 0).peek (BitVec.ofNat 16 (256 * page.toNat + k))).1 := by
  have turns : 256 = k + (255 - k + 1) := by omega
  have addr := s.dmaCopy_oamAddr page k 0
  have wf' := s.dmaCopy_oam_wf page k 0 wf
  rw [turns, State.dmaCopy_add, ← turns, Nat.zero_add, ← addr, ← wordOf_ofNat hk]
  generalize s.dmaCopy page k 0 = u at addr wf'
  rw [State.dmaCopy, State.dmaCopy_oam_read_ne]
  · exact Memory.read_write_same wf' _ _
  · intro i lo hi
    change (u.ppu.oamAddr.toNat + i) % 256 ≠ _
    omega

/-- A `Peek` of a work RAM page during the copy gives the byte of work RAM. -/
theorem State.dmaCopy_peek_workRam {s : State} {page : Byte} (hp : page.toNat < 0x20) {k : Nat} (hk : k < 256) :
    ((s.dmaCopy page k 0).peek (BitVec.ofNat 16 (256 * page.toNat + k))).1 =
      s.ram.read ((256 * page.toNat + k) % 2048) := by
  have val : (BitVec.ofNat 16 (256 * page.toNat + k)).toNat = 256 * page.toNat + k := by
    rw [BitVec.toNat_ofNat]
    omega
  have lt : BitVec.ofNat 16 (256 * page.toNat + k) < 0x2000#16 := by
    rw [BitVec.lt_def, val]
    change _ < 8192
    omega
  rw [State.peek, State.memRead_workRam _ lt, State.dmaCopy_ram, ramIndex, val]

/-- Settles O42: the copy loop turn by turn, and its frame. -/
theorem oamDma : Obligations.OamDma := by
  intro s page wf t
  have read k (hk : k < 256) := State.dmaCopy_oam_read page wf hk
  obtain ⟨oam, draws, frame⟩ := s.dmaCopy_frame page 256 0
  have dma : t = { s.dmaCopy page 256 0 with cycles := s.cycles + 513 + s.cycles % 2 } :=
    (s.memWrite_dma page).trans (s.oamDma_eq page)
  rw [dma]
  refine ⟨rfl, read, fun hp k hk => (read k hk).trans (State.dmaCopy_peek_workRam hp hk), ?_⟩
  rw [frame]

/-! ### The memories across an instruction

`State.memories` is the part of a machine the memory frame speaks of. No read changes it, so an instruction
changes what its writes do, and `Memories.SameOutside` says of a write what lies outside it. -/

/-- The memories of a machine: the processor's, the video chip's and the cartridge's. -/
structure Memories where
  ram : Memory
  prgRam : Memory
  oam : Memory
  palette : Memory
  ciram : Memory
  chr : Option Memory
  prgRom : Option Memory

def State.memories (s : State) : Memories where
  ram := s.ram
  prgRam := s.prgRam
  oam := s.ppu.oam
  palette := s.ppu.palette
  ciram := s.ppu.ciram
  chr := s.cart.map (·.chr)
  prgRom := s.cart.map (·.prgRom)

/-! Reads. -/

theorem Cartridge.readRegister_regs {c d : Cartridge} {a : Addr} {v : Byte}
    (h : c.readRegister a = some (v, d)) : ∃ r, d = { c with regs := r } := by
  unfold Cartridge.readRegister at h
  split at h
  · cases h
  · obtain ⟨r, -, e⟩ := Option.map_eq_some_iff.mp h
    cases e
    exact ⟨_, rfl⟩

theorem Cartridge.writeRegister_regs {c d : Cartridge} {a : Addr} {v : Byte}
    (h : c.writeRegister a v = some d) : ∃ r, d = { c with regs := r } := by
  unfold Cartridge.writeRegister at h
  split at h
  · cases h
  · obtain ⟨r, -, e⟩ := Option.map_eq_some_iff.mp h
    exact ⟨r, e.symm⟩

theorem Cartridge.mapCpuWrite_regs (c : Cartridge) (a : Addr) (v : Byte) :
    ∃ r, c.mapCpuWrite a v = { c with regs := r } := by
  unfold Cartridge.mapCpuWrite
  split <;> exact ⟨_, rfl⟩

/-- The mapper's registers are no memory. -/
theorem State.memories_withCart {s : State} {c d : Cartridge} (hc : s.cart = some c)
    (hd : ∃ r, d = { c with regs := r }) : State.memories { s with cart := some d } = s.memories := by
  obtain ⟨r, rfl⟩ := hd
  simp [State.memories, hc]

theorem State.hookedRead_memories (s : State) (a : Addr) {r : Byte × State} (hr : r.2.memories = s.memories) :
    (s.hookedRead a r).2.memories = s.memories := by
  unfold State.hookedRead
  cases e : s.cart.bind (·.readRegister a) with
  | none => exact hr
  | some q =>
    obtain ⟨c, hc, hq⟩ := Option.bind_eq_some_iff.mp e
    exact State.memories_withCart hc (Cartridge.readRegister_regs hq)

theorem State.ppuRegReadEffect_memories (s : State) (r : BitVec 3) :
    (s.ppuRegReadEffect r).memories = s.memories := by
  unfold State.ppuRegReadEffect
  split
  · rfl
  split
  · rfl
  split
  · unfold State.dataEffect
    dsimp only
    split <;> rfl
  · rfl

/-- No bus read changes a memory. -/
@[simp] theorem State.memRead_memories (s : State) (a : Addr) : (s.memRead a).2.memories = s.memories := by
  revert s
  refine State.memRead_cases (P := fun f => ∀ s : State, (f s).2.memories = s.memories) a ?_ ?_ ?_ ?_ ?_ ?_ ?_ ?_
  · exact fun _ _ => rfl
  · exact fun _ _ s => s.ppuRegReadEffect_memories _
  · exact fun _ => rfl
  · exact fun _ => rfl
  · exact fun _ _ => rfl
  · exact fun s => s.hookedRead_memories a rfl
  · exact fun _ _ s => s.hookedRead_memories a rfl
  · intro _ s
    change (s.prgRead a).2.memories = _
    unfold State.prgRead
    split <;> rfl

@[simp] theorem State.locate_memories (s : State) (m : AddrMode) : (s.locate m).state.memories = s.memories := by
  cases m <;> simp [State.locate]

theorem State.readOperand_memories (s : State) (m : AddrMode) : (s.readOperand m).2.memories = s.memories := by
  rw [State.readOperand_eq]
  change (s.operand m).2.memories = _
  cases m <;> simp [State.operand]

theorem State.read16_memories (s : State) (a : Addr) : (s.read16 a).2.memories = s.memories := by
  simp [State.read16]

/-! Writes. -/

/-- From `m` to `n` nothing changed outside what stores to the addresses `as` may change (20 R76, R80, R81; 61 R516,
R519). -/
structure Memories.SameOutside (as : List Addr) (m n : Memories) : Prop where
  ram : ∀ k, (∀ b ∈ as, b < 0x2000#16 → ramIndex b ≠ k) → n.ram.read k = m.ram.read k
  prgRam : ∀ k, (∀ b ∈ as, b.toNat ≠ 0x6000 + k) → n.prgRam.read k = m.prgRam.read k
  oam : (∀ b ∈ as, ¬ (0x2000#16 ≤ b ∧ b < 0x4000#16 ∧ b.toNat % 8 = 4) ∧ b ≠ 0x4014#16) → n.oam = m.oam
  video : (∀ b ∈ as, ¬ (0x2000#16 ≤ b ∧ b < 0x4000#16 ∧ b.toNat % 8 = 7)) →
    n.palette = m.palette ∧ n.ciram = m.ciram ∧ n.chr = m.chr
  prgRom : n.prgRom = m.prgRom

theorem Memories.SameOutside.of_eq {as : List Addr} {m n : Memories} (h : n = m) : SameOutside as m n := by
  subst h
  exact ⟨fun _ _ => rfl, fun _ _ => rfl, fun _ => rfl, fun _ => ⟨rfl, rfl, rfl⟩, rfl⟩

theorem Memories.SameOutside.trans {as bs : List Addr} {m n o : Memories} (h : SameOutside as m n)
    (k : SameOutside bs n o) : SameOutside (as ++ bs) m o := by
  have left {P : Addr → Prop} (hp : ∀ b ∈ as ++ bs, P b) : ∀ b ∈ as, P b := (List.forall_mem_append.mp hp).1
  have right {P : Addr → Prop} (hp : ∀ b ∈ as ++ bs, P b) : ∀ b ∈ bs, P b := (List.forall_mem_append.mp hp).2
  refine ⟨fun i hi => ?_, fun i hi => ?_, fun hi => ?_, fun hi => ?_, k.prgRom.trans h.prgRom⟩
  · exact (k.ram i (right hi)).trans (h.ram i (left hi))
  · exact (k.prgRam i (right hi)).trans (h.prgRam i (left hi))
  · exact (k.oam (right hi)).trans (h.oam (left hi))
  · obtain ⟨hpal, hci, hchr⟩ := h.video (left hi)
    obtain ⟨kpal, kci, kchr⟩ := k.video (right hi)
    exact ⟨kpal.trans hpal, kci.trans hci, kchr.trans hchr⟩

/-- A $2007 write stores to palette RAM, CIRAM or CHR memory, and to no other memory (61 R541–R544). -/
theorem State.ppuWrite_memories (s : State) (a : BitVec 14) (v : Byte) :
    ∃ palette ciram chr, (s.ppuWrite a v).memories =
      { s.memories with palette := palette, ciram := ciram, chr := chr } := by
  unfold State.ppuWrite
  split_ifs
  · cases hc : s.cart with
    | none => exact ⟨_, _, _, rfl⟩
    | some c =>
      dsimp only
      split
      · next i _ =>
        split_ifs
        · exact ⟨s.ppu.palette, s.ppu.ciram, some (c.chr.write i v), by simp [State.memories, hc]⟩
        · exact ⟨_, _, _, rfl⟩
      · exact ⟨_, _, _, rfl⟩
  · split <;> exact ⟨_, _, _, rfl⟩
  · exact ⟨_, _, _, rfl⟩

/-- Register writes other than of $2004 and $2007 store to no memory (61 R511). -/
theorem State.ppuRegWrite_memories (s : State) {r : BitVec 3} (h4 : r ≠ 4) (h7 : r ≠ 7) (v : Byte) :
    (s.ppuRegWrite r v).memories = s.memories := by
  have h : r = 0 ∨ r = 1 ∨ r = 2 ∨ r = 3 ∨ r = 5 ∨ r = 6 := by revert r; decide
  rcases h with rfl | rfl | rfl | rfl | rfl | rfl
  · rfl
  · rfl
  · rfl
  · rfl
  · change State.memories { s with ppu := (s.ppu.refreshAll v).writeScroll v } = _
    unfold Ppu.writeScroll
    split <;> rfl
  · change State.memories { s with ppu := (s.ppu.refreshAll v).writeAddr v } = _
    unfold Ppu.writeAddr
    split <;> rfl

theorem State.ppuRegWrite_sameOutside (s : State) {a : Addr} (lo : ¬ a < 0x2000#16) (hi : a < 0x4000#16) (v : Byte) :
    Memories.SameOutside [a] s.memories (s.ppuRegWrite (a.setWidth 3) v).memories := by
  have mod : (a.setWidth 3).toNat = a.toNat % 8 := BitVec.toNat_setWidth 3 a
  by_cases h4 : a.setWidth 3 = 4#3
  · rw [h4] at mod ⊢
    refine ⟨fun _ _ => rfl, fun _ _ => rfl, fun h => absurd ⟨?_, hi, mod.symm⟩ (h a (by simp)).1,
      fun _ => ⟨rfl, rfl, rfl⟩, rfl⟩
    exact BitVec.not_lt.mp lo
  by_cases h7 : a.setWidth 3 = 7#3
  · rw [h7] at mod ⊢
    obtain ⟨palette, ciram, chr, e⟩ := State.ppuWrite_memories { s with ppu := s.ppu.refreshAll v } s.ppu.dataAddr v
    have e : (s.ppuRegWrite 7#3 v).memories = { s.memories with palette := palette, ciram := ciram, chr := chr } := e
    rw [e]
    refine ⟨fun _ _ => rfl, fun _ _ => rfl, fun _ => rfl, fun h => absurd ⟨?_, hi, mod.symm⟩ (h a (by simp)), rfl⟩
    exact BitVec.not_lt.mp lo
  · exact .of_eq (s.ppuRegWrite_memories h4 h7 v)

theorem State.hookedWrite_sameOutside (s : State) (a : Addr) (v : Byte) {t : State}
    (ht : Memories.SameOutside [a] s.memories t.memories) :
    Memories.SameOutside [a] s.memories (s.hookedWrite a v t).memories := by
  unfold State.hookedWrite
  cases e : s.cart.bind (·.writeRegister a v) with
  | none => exact ht
  | some d =>
    obtain ⟨c, hc, hd⟩ := Option.bind_eq_some_iff.mp e
    exact .of_eq (State.memories_withCart hc (Cartridge.writeRegister_regs hd))

/-- A bus write changes no memory outside what its address selects. -/
theorem State.memWrite_sameOutside (s : State) (a : Addr) (v : Byte) :
    Memories.SameOutside [a] s.memories (s.memWrite a v).memories := by
  revert s
  refine State.memWrite_cases (P := fun f => ∀ s : State, Memories.SameOutside [a] s.memories (f s).memories) a v
    ?_ ?_ ?_ ?_ ?_ ?_ ?_ ?_ ?_
  · intro ha s
    exact ⟨fun k h => Memory.read_write_ne (h a (by simp) ha) v, fun _ _ => rfl, fun _ => rfl,
      fun _ => ⟨rfl, rfl, rfl⟩, rfl⟩
  · exact fun lo hi s => s.ppuRegWrite_sameOutside lo hi v
  · intro ha s
    obtain ⟨oam, draws, frame⟩ := s.dmaCopy_frame v 256 0
    change Memories.SameOutside [a] s.memories (s.oamDma v).memories
    rw [State.oamDma_eq, frame]
    exact ⟨fun _ _ => rfl, fun _ _ => rfl, fun h => absurd ha (h a (by simp)).2, fun _ => ⟨rfl, rfl, rfl⟩, rfl⟩
  · exact fun _ s => .of_eq rfl
  · exact fun _ s => .of_eq rfl
  · exact fun _ s => .of_eq rfl
  · exact fun _ s => s.hookedWrite_sameOutside a v (.of_eq rfl)
  · intro lo hi s
    have prg (k : Nat) (h : a.toNat ≠ 0x6000 + k) : prgRamIndex a ≠ k := by
      unfold prgRamIndex
      bv_omega
    exact s.hookedWrite_sameOutside a v ⟨fun _ _ => rfl, fun k h => Memory.read_write_ne (prg k (h a (by simp))) v,
      fun _ => rfl, fun _ => ⟨rfl, rfl, rfl⟩, rfl⟩
  · intro _ s
    refine .of_eq ?_
    change State.memories { s with cart := s.cart.map (·.mapCpuWrite a v) } = _
    cases hc : s.cart with
    | none => simp [State.memories, hc]
    | some c => exact State.memories_withCart hc (c.mapCpuWrite_regs a v)

/-! Operand uses and the stack. -/

theorem State.storeOperand_sameOutside (s : State) (m : AddrMode) (v : Byte) :
    Memories.SameOutside [(s.locate m).ea] s.memories (s.storeOperand m v).memories := by
  have h := ((s.locate m).state.charge (storeCycles m)).memWrite_sameOutside (s.locate m).ea v
  rwa [show ((s.locate m).state.charge (storeCycles m)).memories = s.memories from s.locate_memories m] at h

theorem State.modifyOperand_mem (s : State) {m : AddrMode} (hm : m ≠ .acc) (f : Byte → Byte) :
    let r := ((s.locate m).state.charge (modifyCycles m)).memRead (s.locate m).ea
    (s.modifyOperand m f).state = (r.2.memWrite (s.locate m).ea (f r.1)).advance m.size := by
  cases m
  case acc => exact absurd rfl hm
  all_goals rfl

theorem State.modifyOperand_sameOutside (s : State) {m : AddrMode} {as : List Addr}
    (has : m ≠ .acc → as = [(s.locate m).ea]) (f : Byte → Byte) :
    Memories.SameOutside as s.memories (s.modifyOperand m f).state.memories := by
  by_cases hm : m = .acc
  · subst hm
    exact .of_eq rfl
  · rw [has hm, s.modifyOperand_mem hm]
    have read := State.memRead_memories ((s.locate m).state.charge (modifyCycles m)) (s.locate m).ea
    rw [← s.locate_memories m, ← show _ = (s.locate m).state.memories from read]
    exact State.memWrite_sameOutside _ _ _

/-! The stack. -/

theorem State.push_sameOutside (s : State) (v : Byte) :
    Memories.SameOutside [s.stackAddr] s.memories (s.push v).memories := s.memWrite_sameOutside s.stackAddr v

theorem State.push_stackAddr (s : State) (v : Byte) :
    (s.push v).stackAddr = { s with sp := s.sp - 1 }.stackAddr := by
  rw [State.push_eq]
  rfl

theorem State.push16_stackAddr (s : State) (w : Addr) :
    (s.push16 w).stackAddr = { s with sp := s.sp - 2 }.stackAddr := by
  rw [State.push16_eq, show s.sp - 1 - 1 = s.sp - 2 by bv_omega]
  rfl

theorem State.push16_sameOutside (s : State) (w : Addr) :
    Memories.SameOutside [s.stackAddr, { s with sp := s.sp - 1 }.stackAddr] s.memories (s.push16 w).memories := by
  rw [← s.push_stackAddr (hiByte w)]
  exact (s.push_sameOutside _).trans ((s.push _).push_sameOutside _)

theorem State.interrupt_sameOutside (s : State) (ret vector : Addr) (b : Bool) :
    Memories.SameOutside [s.stackAddr, { s with sp := s.sp - 1 }.stackAddr, { s with sp := s.sp - 2 }.stackAddr]
      s.memories (s.interrupt ret vector b).memories := by
  have pushed := (s.push16_sameOutside ret).trans ((s.push16 ret).push_sameOutside (s.p.pushed b))
  rw [s.push16_stackAddr] at pushed
  have vectorRead := State.read16_memories
    { (s.push16 ret).push (s.p.pushed b) with p := { ((s.push16 ret).push (s.p.pushed b)).p with i := true } } vector
  rwa [← show _ = ((s.push16 ret).push (s.p.pushed b)).memories from vectorRead] at pushed

theorem State.pull_memories (s : State) : s.pull.2.memories = s.memories := by
  rw [State.pull_eq]
  rfl

theorem State.pull16_memories (s : State) : s.pull16.2.memories = s.memories := by
  rw [State.pull16_eq]
  rfl

theorem State.returnFromInterrupt_memories (s : State) : s.returnFromInterrupt.memories = s.memories := by
  rw [State.returnFromInterrupt_eq]
  rfl

theorem State.branch_memories (s : State) (cond : Bool) (off : Byte) :
    (s.branch cond off).memories = s.memories := by
  cases cond <;> rfl

/-! Instructions. -/

/-- An instruction changes no memory outside what the addresses it stores to select: its one write, its pushes,
or none. -/
theorem exec_sameOutside {i : Instr} {s t : State} (ht : exec i s = .next t) :
    Memories.SameOutside (storedTo i s) s.memories t.memories := by
  cases i with
  | lda m | ldx m | ldy m | lax m | adc m | sbc m | and m | ora m | eor m | bit m | cmp m | cpx m | cpy m =>
    cases ht; exact .of_eq (s.readOperand_memories m)
  | sbcEB v | nopImm _ v => cases ht; exact .of_eq (s.readOperand_memories (.imm v))
  | nopZp _ a => cases ht; exact .of_eq (s.readOperand_memories (.zp a))
  | nopZpx _ a => cases ht; exact .of_eq (s.readOperand_memories (.zpx a))
  | nopAbs a => cases ht; exact .of_eq (s.readOperand_memories (.abs a))
  | nopAbsx _ a => cases ht; exact .of_eq (s.readOperand_memories (.absx a))
  | sta m | stx m | sty m | sax m => cases ht; exact s.storeOperand_sameOutside m _
  | inc m | dec m | slo m | rla m | sre m | rra m | dcp m | isb m =>
    cases ht; exact s.modifyOperand_sameOutside (fun _ => rfl) _
  | asl m | lsr m | rol m | ror m =>
    cases ht; exact s.modifyOperand_sameOutside (fun hm => if_neg hm) _
  | bpl off | bmi off | bvc off | bvs off | bcc off | bcs off | bne off | beq off =>
    cases ht; exact .of_eq (s.branch_memories _ off)
  | tax | tay | txa | tya | tsx | txs | inx | iny | dex | dey | clc | sec | cli | sei | clv | cld | sed | nop
  | nopImp _ | jam _ | anc _ | alr | arr | xaa | lxa | axs | ahx _ | tas | shy | shx | las =>
    cases ht; exact .of_eq rfl
  | pha | php => cases ht; exact s.push_sameOutside _
  | pla | plp => cases ht; exact .of_eq s.pull_memories
  | jmp m => cases ht; exact .of_eq (s.locate_memories m)
  | jsr target => cases ht; exact s.push16_sameOutside _
  | rts => cases ht; exact .of_eq s.pull16_memories
  | rti => cases ht; exact .of_eq s.returnFromInterrupt_memories
  | brk => cases ht; exact s.interrupt_sameOutside _ _ true

/-- Settles O30: reads change no memory, and each write changes only what its address selects. -/
theorem memoryFrame : Obligations.MemoryFrame := by
  intro i s t _ ht
  obtain ⟨ram, prgRam, oam, video, prgRom⟩ := exec_sameOutside ht
  refine ⟨fun a ha outside => ?_, fun k _ => prgRam k, oam, video, prgRom⟩
  rw [t.memRead_workRam ha, s.memRead_workRam ha]
  exact ram (ramIndex a) outside

end Sys2Proof.Machine

/-! ## Encoding and addressing (O21, O22, O24)

The opcode map and the encoder are two tables written apart: the map by opcode byte, the encoder by
instruction and mode. `ModeName.row` says which cell a mode asks for, so that "the encoder's opcodes stand at
the map's cells" is, for each instruction, one equation of lists of cells. -/

namespace Sys2Proof

/-! ### Decoding what was encoded -/

/-- The map's cell of an instruction `f` with an operand of this mode: its format (30 R120), and the operand
made of the operand bytes. -/
def ModeName.row (f : AddrMode → Instr) : ModeName → RowDecoder
  | .acc => one (f .acc)
  | .imm => byteOp (f <| .imm ·)
  | .zp => byteOp (f <| .zp ·)
  | .zpx => byteOp (f <| .zpx ·)
  | .zpy => byteOp (f <| .zpy ·)
  | .izx => byteOp (f <| .izx ·)
  | .izy => byteOp (f <| .izy ·)
  | .abs => wordOp (f <| .abs ·)
  | .absx => wordOp (f <| .absx ·)
  | .absy => wordOp (f <| .absy ·)
  | .ind => wordOp (f <| .ind ·)

/-- A mode's cell decodes the mode's own operand bytes. -/
theorem decode_row {op : Byte} {f : AddrMode → Instr} {m : AddrMode} (h : rowOf op = m.name.row f)
    (rest : List Byte) : decode (op :: m.bytes ++ rest) = .ok (f m, rest) := by
  cases m with
  | acc => exact decode_one h rest
  | imm b | zp b | zpx b | zpy b | izx b | izy b => exact decode_byteOp h b rest
  | abs a | absx a | absy a | ind a =>
    dsimp only [AddrMode.name, ModeName.row] at h
    exact decode_wordOp h a rest

/-- An instruction whose opcodes stand, mode by mode, at the modes' cells decodes from its encoding. -/
theorem decode_pick {f : AddrMode → Instr} {ms : List ModeName} {codes : List Byte} {m : AddrMode}
    (rows : ms.map (fun n => rowOf (((ms.zip codes).lookup n).getD 0)) = ms.map (·.row f))
    (h : m.isIn ms = true) (rest : List Byte) :
    decode (pick ms codes m :: m.bytes ++ rest) = .ok (f m, rest) :=
  decode_row (List.map_inj_left.1 rows m.name (List.contains_iff_mem.1 h)) rest

/-- An opcode byte among those an instruction may carry stands at that instruction's cell. -/
theorem rowOf_of_contains {ops : List Byte} {cell : Byte → RowDecoder} (rows : ops.map rowOf = ops.map cell)
    {op : Byte} (h : ops.contains op = true) : rowOf op = cell op :=
  List.map_inj_left.1 rows op (List.contains_iff_mem.1 h)

/-- Settles O21: instruction by instruction, the opcode of the "Encoding" line stands at the map's cell of
that instruction. -/
theorem decodeEncode : Obligations.DecodeEncode := by
  intro i rest wf
  cases i with
  | lda m | ldx m | ldy m | sta m | stx m | sty m | adc m | sbc m | and m | ora m | eor m | bit m | cmp m
  | cpx m | cpy m | inc m | dec m | asl m | lsr m | rol m | ror m | jmp m | lax m | sax m | slo m | rla m
  | sre m | rra m | dcp m | isb m => exact decode_pick rfl wf rest
  | nopImp op => exact decode_one (rowOf_of_contains (cell := fun op => one (.nopImp op)) rfl wf) rest
  | jam op => exact decode_one (rowOf_of_contains (cell := fun op => one (.jam op)) rfl wf) rest
  | anc op => exact decode_one (rowOf_of_contains (cell := fun op => one (.anc op)) rfl wf) rest
  | ahx op => exact decode_one (rowOf_of_contains (cell := fun op => one (.ahx op)) rfl wf) rest
  | nopImm op v => exact decode_byteOp (rowOf_of_contains (cell := fun op => byteOp (.nopImm op)) rfl wf) v rest
  | nopZp op a => exact decode_byteOp (rowOf_of_contains (cell := fun op => byteOp (.nopZp op)) rfl wf) a rest
  | nopZpx op a => exact decode_byteOp (rowOf_of_contains (cell := fun op => byteOp (.nopZpx op)) rfl wf) a rest
  | nopAbsx op a => exact decode_wordOp (rowOf_of_contains (cell := fun op => wordOp (.nopAbsx op)) rfl wf) a rest
  | bpl v | bmi v | bvc v | bvs v | bcc v | bcs v | bne v | beq v | sbcEB v =>
    exact decode_byteOp (by rw [Instr.opcode]; rfl) v rest
  | jsr a | nopAbs a => exact decode_wordOp (by rw [Instr.opcode]; rfl) a rest
  | tax | tay | txa | tya | tsx | txs | pha | php | pla | plp | inx | iny | dex | dey | rts | rti | brk
  | clc | sec | cli | sei | clv | cld | sed | nop | alr | arr | xaa | lxa | axs | tas | shy | shx | las =>
    exact decode_one rfl rest

/-! ### Encoding what was decoded -/

/-- With all bytes of the opcode's length there, exactly those are decoded and the others are left. -/
theorem decode_of_length_le {op : Byte} {tail : List Byte} (h : opLength op ≤ tail.length + 1) :
    ∃ i : Instr, decode (op :: tail) = .ok (i, tail.drop (opLength op - 1)) ∧ i.WellFormed ∧
      encode i = op :: tail.take (opLength op - 1) ∧ i.length = opLength op := by
  obtain ⟨len, eq⟩ | ⟨len, eq⟩ | ⟨len, eq⟩ := decode_cons op tail
  · obtain ⟨wf, enc, length⟩ := decodeOp_spec op 0 0
    exact ⟨_, by rw [eq, len]; rfl, wf, by rw [enc, len]; rfl, length⟩
  · obtain _ | ⟨b1, tail⟩ := tail
    · simp [len] at h
    · obtain ⟨wf, enc, length⟩ := decodeOp_spec op b1 0
      exact ⟨_, by rw [eq, len]; rfl, wf, by rw [enc, len]; rfl, length⟩
  · obtain _ | ⟨b1, _ | ⟨b2, tail⟩⟩ := tail
    · simp [len] at h
    · simp [len] at h
    · obtain ⟨wf, enc, length⟩ := decodeOp_spec op b1 b2
      exact ⟨_, by rw [eq, len]; rfl, wf, by rw [enc, len]; rfl, length⟩

/-- With a byte of the opcode's length missing, nothing is decoded. -/
theorem decode_of_length_lt {op : Byte} {tail : List Byte} (h : tail.length + 1 < opLength op) :
    decode (op :: tail) = .error .missingOperand := by
  obtain ⟨len, -⟩ | ⟨len, eq⟩ | ⟨len, eq⟩ := decode_cons op tail
  · omega
  · obtain _ | ⟨b1, tail⟩ := tail
    · exact eq
    · simp [len] at h
  · obtain _ | ⟨b1, _ | ⟨b2, tail⟩⟩ := tail
    · exact eq
    · exact eq
    · simp only [len, List.length_cons] at h
      omega

/-- Settles O22: the opcode's length decides between the two lemmas above. -/
theorem encodeDecode : Obligations.EncodeDecode := by
  refine ⟨fun bytes rest i h => ?_, fun op => ⟨opLength op, (opLength_range op).1, (opLength_range op).2,
    fun tail => ⟨fun le => ?_, fun lt => ⟨_, decode_of_length_lt lt⟩⟩⟩⟩
  · obtain _ | ⟨op, tail⟩ := bytes
    · cases h
    · obtain le | lt := le_or_gt (opLength op) (tail.length + 1)
      · obtain ⟨j, dec, wf, enc, -⟩ := decode_of_length_le le
        cases dec.symm.trans h
        exact ⟨wf, by rw [enc, List.cons_append, List.take_append_drop]⟩
      · cases (decode_of_length_lt lt).symm.trans h
  · obtain ⟨i, dec, -, -, length⟩ := decode_of_length_le le
    exact ⟨i, dec, length⟩

end Sys2Proof

namespace Sys2Proof.Machine

/-! ### Effective addresses in natural numbers -/

theorem zeroPage_toNat (b : Byte) : (b.setWidth 16).toNat = b.toNat :=
  BitVec.toNat_setWidth_of_le (by decide)

theorem index_toNat (a : Addr) (i : Byte) : (a + i.setWidth 16).toNat = (a.toNat + i.toNat) % 65536 := by
  rw [BitVec.toNat_add, zeroPage_toNat]

/-- The comparison of bits 15–8 that `cross` is (30 R137, R138, R141). -/
theorem pageCross_eq (a b : Addr) : pageCross a b = decide (a.toNat / 256 ≠ b.toNat / 256) := by
  simp only [pageCross, bne, ne_eq, ← hiByte_toNat, BitVec.toNat_inj, decide_not]
  rfl

/-- A read at a zero-page address given in natural numbers: work RAM, and nothing else happens. -/
theorem State.memRead_ofNat_zeroPage (s : State) (b : Byte) :
    s.memRead (BitVec.ofNat 16 b.toNat) = (s.ram.read b.toNat, s) := by
  rw [BitVec.ofNat_toNat, State.memRead_zeroPage]

/-! ### The forms with a pointer -/

/-- (ind) (30 R139): two reads, the second after the first and on the pointer's own page. -/
theorem State.locate_ind (s : State) (p : Addr) :
    s.locate (.ind p) =
      let lo := s.memRead p
      let hi := lo.2.memRead (BitVec.ofNat 16 (p.toNat / 256 * 256 + (p.toNat + 1) % 256))
      ⟨wordOf lo.1 hi.1, false, hi.2⟩ := by
  rw [← pageWrap_toNat, BitVec.ofNat_toNat, BitVec.setWidth_eq]
  rfl

/-- The word at a zero-page pointer, whose high byte wraps within the page (30 R140, R141). -/
def State.zeroPageWord (s : State) (p : Byte) : Addr := wordOf (s.ram.read p.toNat) (s.ram.read (p + 1).toNat)

theorem State.locate_izx (s : State) (b : Byte) : s.locate (.izx b) = ⟨s.zeroPageWord (b + s.x), false, s⟩ := by
  simp only [State.locate, State.memRead_zeroPage, State.zeroPageWord]

theorem State.locate_izy (s : State) (b : Byte) :
    s.locate (.izy b) =
      let base := s.zeroPageWord b
      ⟨base + s.y.setWidth 16, pageCross base (base + s.y.setWidth 16), s⟩ := by
  simp only [State.locate, State.memRead_zeroPage, State.zeroPageWord]

theorem State.zeroPageWord_toNat (s : State) (p : Byte) :
    (s.zeroPageWord p).toNat =
      256 * (s.memRead (BitVec.ofNat 16 ((p.toNat + 1) % 256))).1.toNat
        + (s.memRead (BitVec.ofNat 16 p.toNat)).1.toNat := by
  have wrap : (p.toNat + 1) % 256 = (p + 1).toNat := (BitVec.toNat_add p 1).symm
  rw [wrap, State.memRead_ofNat_zeroPage, State.memRead_ofNat_zeroPage, State.zeroPageWord, wordOf_toNat]

/-- Settles O24: the direct forms by the arithmetic of bytes and words, the pointer forms by the lemmas above. -/
theorem effectiveAddresses : Obligations.EffectiveAddresses := by
  intro s
  refine ⟨fun b => ⟨zeroPage_toNat b, rfl, rfl⟩,
    fun b => ⟨(zeroPage_toNat _).trans (BitVec.toNat_add b s.x), rfl, rfl⟩,
    fun b => ⟨(zeroPage_toNat _).trans (BitVec.toNat_add b s.y), rfl, rfl⟩,
    fun a => ⟨rfl, rfl, rfl⟩,
    fun a => ⟨index_toNat a s.x, ?_, rfl⟩,
    fun a => ⟨index_toNat a s.y, ?_, rfl⟩,
    fun p => ?_, fun b => ?_, fun b => ?_⟩
  · rw [← index_toNat, ← pageCross_eq]; rfl
  · rw [← index_toNat, ← pageCross_eq]; rfl
  · rw [State.locate_ind]
    exact ⟨wordOf_toNat _ _, rfl, rfl⟩
  · rw [State.locate_izx]
    refine ⟨?_, rfl, rfl⟩
    rw [State.zeroPageWord_toNat, BitVec.toNat_add, Nat.mod_add_mod]
  · rw [State.locate_izy, ← State.zeroPageWord_toNat]
    exact ⟨index_toNat _ s.y, by rw [← index_toNat, ← pageCross_eq], rfl⟩

end Sys2Proof.Machine

/-! ## Operand rows, loads, stores and transfers (O1, O2, O3)

What an instruction with an operand is encoded by and costs depends on the operand's mode, not on its bytes:
a rule's rows are checked on one operand of each mode, by evaluation. `reads_of_exec`, `stores_of_exec` and
`implied_of_exec` then leave an instruction's own effect to show. -/

namespace Sys2Proof

/-- The operand of a mode with zero bytes. -/
def ModeName.form : ModeName → AddrMode
  | .acc => .acc
  | .imm => .imm 0
  | .zp => .zp 0
  | .zpx => .zpx 0
  | .zpy => .zpy 0
  | .abs => .abs 0
  | .absx => .absx 0
  | .absy => .absy 0
  | .ind => .ind 0
  | .izx => .izx 0
  | .izy => .izy 0

/-- The modes that add an index to a 16-bit base, and so may leave its page (30 R137, R138, R141). -/
def ModeName.mayCross : ModeName → Bool
  | .absx | .absy | .izy => true
  | _ => false

@[simp] theorem pick_form (ms : List ModeName) (codes : List Byte) (m : AddrMode) :
    pick ms codes m.name.form = pick ms codes m := by
  cases m <;> rfl

theorem AddrMode.size_eq (m : AddrMode) : m.size = 1 + m.bytes.length := by
  cases m <;> rfl

end Sys2Proof

namespace Sys2Proof.Machine

open Sys2Proof.Ref

@[simp] theorem readCycles_form (m : AddrMode) : readCycles m.name.form = readCycles m := by
  cases m <;> rfl

@[simp] theorem storeCycles_form (m : AddrMode) : storeCycles m.name.form = storeCycles m := by
  cases m <;> rfl

/-- The modes without an index on a 16-bit base cross no page. -/
theorem State.mayCross_and_cross (s : State) (m : AddrMode) :
    (m.name.mayCross && (s.locate m).cross) = (s.locate m).cross := by
  cases m <;> rfl

/-! ### The obligations' vocabulary in the model's operations -/

theorem operand_eq (s : State) (m : AddrMode) : operand s m = s.operand m := by
  cases m <;> rfl

theorem getLsbD_seven (v : Byte) : v.getLsbD 7 = decide (128 ≤ v.toNat) :=
  (BitVec.msb_eq_getLsbD_last v).symm.trans v.msb_eq_decide

theorem State.setNZ_eq (s : State) (v : Byte) : s.setNZ v = { s with p := nz s.p v } := by
  rw [State.setNZ, getLsbD_seven]
  rfl

theorem State.loadA_eq (s : State) (v : Byte) : s.loadA v = setA v s := State.setNZ_eq _ v
theorem State.loadX_eq (s : State) (v : Byte) : s.loadX v = setX v s := State.setNZ_eq _ v
theorem State.loadY_eq (s : State) (v : Byte) : s.loadY v = setY v s := State.setNZ_eq _ v

/-- A store is the bus write and its DMA cycles, PC and the base cycles (20 R87). -/
theorem State.storeOperand_eq_store (s : State) (m : AddrMode) (v : Byte) :
    s.storeOperand m v = { store (s.locate m).state (s.locate m).ea v with
      pc := s.pc + BitVec.ofNat 16 m.size
      cycles := s.cycles + storeCycles m + dmaCycles (s.locate m).ea (s.cycles + storeCycles m) } := by
  rw [State.storeOperand_eq, store, dmaCycles]
  split_ifs
  · rw [Nat.add_assoc _ 513]
  · rfl

/-! ### Instructions by their rows -/

/-- An instruction that applies `effect`, which neither reads nor writes PC and the counter, to the operand
read; `table` checks each row's opcode, base cycles and penalty on one operand of its mode. -/
theorem reads_of_exec {rows : List Row} {i : AddrMode → Instr} {effect : Byte → State → State}
    {ms : List ModeName} {codes : List Byte} (code : ∀ m, encode (i m) = pick ms codes m :: m.bytes)
    (table : ∀ row ∈ rows, pick ms codes row.1.form = row.2.1 ∧ readCycles row.1.form = row.2.2.1 ∧
      row.1.mayCross = row.2.2.2)
    (result : ∀ m s, exec (i m) s = .next (effect (s.readOperand m).1 (s.readOperand m).2))
    (frame : ∀ v s pc n, effect v { s with pc := pc, cycles := n } = { effect v s with pc := pc, cycles := n }) :
    Reads rows i effect := by
  rintro ⟨name, op, base, penalty⟩ mem m s rfl
  obtain ⟨hop, hbase, hpenalty⟩ := table _ mem
  simp only [pick_form, readCycles_form] at hop hbase hpenalty
  refine ⟨by rw [code, hop], ?_⟩
  rw [result, State.readOperand_eq, frame, operand_eq, ← m.size_eq, ← hbase, ← hpenalty,
    State.mayCross_and_cross, Nat.add_assoc]

/-- An instruction that stores `value` of the machine before it. -/
theorem stores_of_exec {rows : List Row} {i : AddrMode → Instr} {value : State → Byte}
    {ms : List ModeName} {codes : List Byte} (code : ∀ m, encode (i m) = pick ms codes m :: m.bytes)
    (table : ∀ row ∈ rows, pick ms codes row.1.form = row.2.1 ∧ storeCycles row.1.form = row.2.2.1)
    (result : ∀ m s, exec (i m) s = .next (s.storeOperand m (value s))) : Stores rows i value := by
  rintro ⟨name, op, base, penalty⟩ mem m s rfl
  obtain ⟨hop, hbase⟩ := table _ mem
  simp only [pick_form, storeCycles_form] at hop hbase
  refine ⟨by rw [code, hop], ?_⟩
  rw [result, State.storeOperand_eq_store, ← m.size_eq, ← hbase]

/-- A one-byte instruction whose `effect` leaves PC and the counter alone. -/
theorem implied_of_exec {i : Instr} {op : Byte} {base : Nat} {effect : State → State} (code : encode i = [op])
    (result : ∀ s, exec i s = .next ((effect s).implied base))
    (frame : ∀ s, (effect s).pc = s.pc ∧ (effect s).cycles = s.cycles) : Implied i op base effect := by
  refine ⟨code, fun s => ?_⟩
  obtain ⟨hpc, hcycles⟩ := frame s
  rw [result, ← hpc, ← hcycles]
  rfl

/-- Settles O1: each load is its register's write after the operand's read. -/
theorem loadResults : Obligations.LoadResults := by
  refine ⟨reads_of_exec (fun _ => rfl) (by decide) (fun m s => ?lda) fun _ _ _ _ => rfl,
    reads_of_exec (fun _ => rfl) (by decide) (fun m s => ?ldx) fun _ _ _ _ => rfl,
    reads_of_exec (fun _ => rfl) (by decide) (fun m s => ?ldy) fun _ _ _ _ => rfl,
    reads_of_exec (fun _ => rfl) (by decide) (fun m s => ?lax) fun _ _ _ _ => rfl⟩
  case lda => rw [← State.loadA_eq]; rfl
  case ldx => rw [← State.loadX_eq]; rfl
  case ldy => rw [← State.loadY_eq]; rfl
  case lax => exact congrArg _ (State.loadX_eq { (s.readOperand m).2 with a := (s.readOperand m).1 } _)

/-- Settles O2: each store is one `State.storeOperand`. -/
theorem storeResults : Obligations.StoreResults :=
  ⟨stores_of_exec (fun _ => rfl) (by decide) fun _ _ => rfl,
    stores_of_exec (fun _ => rfl) (by decide) fun _ _ => rfl,
    stores_of_exec (fun _ => rfl) (by decide) fun _ _ => rfl,
    stores_of_exec (fun _ => rfl) (by decide) fun _ _ => rfl⟩

/-- Settles O3: each transfer is its register's write. -/
theorem transferResults : Obligations.TransferResults := by
  refine ⟨implied_of_exec rfl (fun s => ?tax) fun _ => ⟨rfl, rfl⟩,
    implied_of_exec rfl (fun s => ?tay) fun _ => ⟨rfl, rfl⟩,
    implied_of_exec rfl (fun s => ?txa) fun _ => ⟨rfl, rfl⟩,
    implied_of_exec rfl (fun s => ?tya) fun _ => ⟨rfl, rfl⟩,
    implied_of_exec rfl (fun s => ?tsx) fun _ => ⟨rfl, rfl⟩,
    implied_of_exec rfl (fun s => ?txs) fun _ => ⟨rfl, rfl⟩⟩
  case tax | tsx => rw [← State.loadX_eq]; rfl
  case tay => rw [← State.loadY_eq]; rfl
  case txa | tya => rw [← State.loadA_eq]; rfl
  case txs => rfl

end Sys2Proof.Machine

/-! ## Stack instructions (O4)

`State.push_eq` and `State.pull_eq` say what the stack does to the machine; what is left is the status byte
PHP pushes, which the model makes by clearing bit 4 before it sets it. -/

namespace Sys2Proof.Machine

theorem and_not_or_self {w : Nat} (v m : BitVec w) : v &&& ~~~m ||| m = v ||| m := by
  ext k
  rw [BitVec.getElem_or, BitVec.getElem_and, BitVec.getElem_not, Bool.or_and_distrib_right, Bool.not_or_self,
    Bool.and_true, BitVec.getElem_or]

/-- Bit 4 is cleared and set again, so that the byte is P with bits 5 and 4 set (41 R231). -/
theorem Flags.pushed_true (p : Flags) : p.pushed true = p.toByte ||| 0x30 :=
  calc p.toByte &&& ~~~0x10 ||| 0x20 ||| 0x10
    _ = p.toByte &&& ~~~0x10 ||| 0x10 ||| 0x20 := by ac_rfl
    _ = p.toByte ||| 0x10 ||| 0x20 := by rw [and_not_or_self]
    _ = p.toByte ||| 0x30 := BitVec.or_assoc _ _ _

/-- Settles O4: PHA and PHP are one push, PLA and PLP one pull and a register's write. -/
theorem stackResults : Obligations.StackResults := by
  refine ⟨implied_of_exec rfl (fun s => ?pha) fun _ => ⟨rfl, rfl⟩,
    implied_of_exec rfl (fun s => ?php) fun _ => ⟨rfl, rfl⟩,
    implied_of_exec rfl (fun s => ?pla) fun _ => ⟨rfl, rfl⟩,
    implied_of_exec rfl (fun s => ?plp) fun _ => ⟨rfl, rfl⟩⟩
  case pha => rw [← State.push_eq]; rfl
  case php => rw [← Flags.pushed_true, ← State.push_eq]; rfl
  case pla => rw [exec, execPla, State.pull_eq, State.loadA_eq]
  case plp => rw [exec, execPlp, State.pull_eq]; rfl

end Sys2Proof.Machine

/-! ## Arithmetic and logic (O5, O6, O7, O8, O9)

`modifies_of_exec` does for a read-modify-write what `reads_of_exec` does for a read. The one argument of its
own is V: the model compares sign bits, the statement asks whether the signed result leaves its range; SBC then
is ADC of the complement. -/

namespace Sys2Proof.Machine

open Sys2Proof.Ref

/-! ### A read-modify-write in the obligations' vocabulary -/

@[simp] theorem modifyCycles_form (m : AddrMode) : modifyCycles m.name.form = modifyCycles m := by
  cases m <;> rfl

theorem modified_mem (s : State) {m : AddrMode} (hmem : m ≠ .acc) (f : Byte → Byte) :
    modified s m f =
      let r := (s.locate m).state.memRead (s.locate m).ea
      (r.1, f r.1, store r.2 (s.locate m).ea (f r.1)) := by
  cases m
  case acc => exact absurd rfl hmem
  all_goals rfl

/-- A read-modify-write is `modified`, its DMA cycles (20 R87), PC and the base cycles. -/
theorem State.modifyOperand_eq_modified (s : State) (m : AddrMode) (f : Byte → Byte) :
    s.modifyOperand m f = ⟨(modified s m f).1, (modified s m f).2.1, { (modified s m f).2.2 with
      pc := s.pc + BitVec.ofNat 16 m.size
      cycles := s.cycles + modifyCycles m + dmaCycles (s.locate m).ea (s.cycles + modifyCycles m) }⟩ := by
  by_cases hacc : m = .acc
  · rw [hacc]
    rfl
  · simp only [State.modifyOperand_eq s hacc, modified_mem s hacc, store, dmaCycles]
    split_ifs
    · rw [Nat.add_assoc _ 513]
    · rfl

/-- An instruction that applies `finish`, which neither reads nor writes PC and the counter, after one
read-modify-write by `f` of the carry before it. -/
theorem modifies_of_exec {rows : List Row} {i : AddrMode → Instr} {f : Bool → Byte → Byte}
    {finish : Byte → Byte → State → State} {ms : List ModeName} {codes : List Byte}
    (code : ∀ m, encode (i m) = pick ms codes m :: m.bytes)
    (table : ∀ row ∈ rows, pick ms codes row.1.form = row.2.1 ∧ modifyCycles row.1.form = row.2.2.1)
    (result : ∀ m s, exec (i m) s = .next (finish (s.modifyOperand m (f s.p.c)).old
      (s.modifyOperand m (f s.p.c)).new (s.modifyOperand m (f s.p.c)).state))
    (frame : ∀ v r s pc n,
      finish v r { s with pc := pc, cycles := n } = { finish v r s with pc := pc, cycles := n }) :
    Modifies rows i f finish := by
  rintro ⟨name, op, base, penalty⟩ mem m s rfl
  obtain ⟨hop, hbase⟩ := table _ mem
  simp only [pick_form, modifyCycles_form] at hop hbase
  refine ⟨by rw [code, hop], ?_⟩
  rw [result, State.modifyOperand_eq_modified, frame, ← m.size_eq, ← hbase]

/-! ### The flags of a sum, a difference and a comparison -/

/-- Both summands differ in sign from the result exactly when the sum of the signed values is out of range
(42 R250). -/
theorem signTest_eq_overflow {a m r : Byte} {c : Bool} (hr : r.toNat = (a.toNat + m.toNat + c.toNat) % 256) :
    ((a ^^^ r) &&& (m ^^^ r)).getLsbD 7
      = decide (a.toInt + m.toInt + (c.toNat : Int) < -128 ∨ 127 < a.toInt + m.toInt + (c.toNat : Int)) := by
  have ha := a.isLt
  have hm := m.isLt
  have hc := c.toNat_le
  rw [BitVec.getLsbD_and, BitVec.getLsbD_xor, BitVec.getLsbD_xor, getLsbD_seven, getLsbD_seven, getLsbD_seven, hr,
    BitVec.toInt_eq_toNat_cond, BitVec.toInt_eq_toNat_cond, Bool.eq_iff_iff]
  simp only [Bool.and_eq_true, bne_iff_ne, ne_eq, decide_eq_decide, decide_eq_true_eq]
  omega

theorem State.addC_eq_adc (s : State) (m : Byte) : s.addC m = adc m s := by
  rw [State.addC, adc, nz, signTest_eq_overflow (BitVec.toNat_ofNat _ _), getLsbD_seven]
  rfl

theorem toInt_complement (v : Byte) : (~~~v).toInt = -v.toInt - 1 := by
  have hv := v.isLt
  rw [BitVec.toInt_eq_toNat_cond, BitVec.toInt_eq_toNat_cond, BitVec.toNat_not]
  omega

/-- To add the complement is to subtract with borrow (42 R251): the signed sums are equal, and the unsigned
sum exceeds the difference by 256. -/
theorem adc_complement (m : Byte) (s : State) : adc (~~~m) s = sbc m s := by
  have hm := m.isLt
  have hsigned : s.a.toInt + (~~~m).toInt + (s.p.c.toNat : Int) = s.a.toInt - m.toInt - (1 - s.p.c.toNat) := by
    rw [toInt_complement]
    omega
  have hsum : ((s.a.toNat + (~~~m).toNat + s.p.c.toNat : Nat) : Int)
      = s.a.toNat - m.toNat - (1 - s.p.c.toNat) + 256 := by
    rw [BitVec.toNat_not]
    omega
  have hresult : BitVec.ofNat 8 (s.a.toNat + (~~~m).toNat + s.p.c.toNat)
      = BitVec.ofInt 8 (s.a.toNat - m.toNat - (1 - s.p.c.toNat)) := by
    rw [← BitVec.ofInt_natCast, hsum, BitVec.ofInt_add]
    exact BitVec.add_zero _
  have hcarry : 256 ≤ s.a.toNat + (~~~m).toNat + s.p.c.toNat
      ↔ (0 : Int) ≤ s.a.toNat - m.toNat - (1 - s.p.c.toNat) := by
    omega
  simp only [adc, sbc, hsigned, hresult, hcarry]

theorem State.addC_complement_eq_sbc (s : State) (m : Byte) : s.addC (m ^^^ 0xFF) = sbc m s := by
  rw [State.addC_eq_adc, ← adc_complement, ← BitVec.xor_allOnes]
  rfl

theorem State.compare_eq (s : State) (r m : Byte) : s.compare r m = Ref.compare r m s := by
  have hdiff : (r - m).toNat = (r.toNat + 256 - m.toNat) % 256 := by
    bv_omega
  rw [State.compare, getLsbD_seven, hdiff]
  rfl

/-- Settles O5: ADC and SBC are one `AddC` each, of the operand and of its complement; D is not read. -/
theorem addSubtractResults : Obligations.AddSubtractResults := by
  refine ⟨reads_of_exec (fun _ => rfl) (by decide) (fun m s => ?adc) fun _ _ _ _ => rfl,
    reads_of_exec (fun _ => rfl) (by decide) (fun m s => ?sbc) fun _ _ _ _ => rfl,
    fun v s => ⟨rfl, ?sbcEB⟩⟩
  case adc => rw [← State.addC_eq_adc]; rfl
  case sbc | sbcEB => rw [← State.addC_complement_eq_sbc]; rfl

/-- Settles O6: AND, ORA and EOR write A, BIT three flags. -/
theorem logicResults : Obligations.LogicResults := by
  refine ⟨reads_of_exec (fun _ => rfl) (by decide) (fun m s => ?and) fun _ _ _ _ => rfl,
    reads_of_exec (fun _ => rfl) (by decide) (fun m s => ?ora) fun _ _ _ _ => rfl,
    reads_of_exec (fun _ => rfl) (by decide) (fun m s => ?eor) fun _ _ _ _ => rfl,
    reads_of_exec (fun _ => rfl) (by decide) (fun m s => ?bit) fun _ _ _ _ => rfl⟩
  case and | ora | eor => rw [← State.loadA_eq]; rfl
  case bit => rfl

/-- Settles O7: each comparison is one `Compare` of its register. -/
theorem compareResults : Obligations.CompareResults := by
  refine ⟨reads_of_exec (fun _ => rfl) (by decide) (fun m s => ?cmp) fun _ _ _ _ => rfl,
    reads_of_exec (fun _ => rfl) (by decide) (fun m s => ?cpx) fun _ _ _ _ => rfl,
    reads_of_exec (fun _ => rfl) (by decide) (fun m s => ?cpy) fun _ _ _ _ => rfl⟩
  case cmp | cpx | cpy => rw [← State.compare_eq]; rfl

/-- Settles O8: INC and DEC are one `State.modifyOperand` each, and N and Z of the byte stored. -/
theorem incrementMemoryResults : Obligations.IncrementMemoryResults := by
  have hinc : (fun v : Byte => BitVec.ofNat 8 (v.toNat + 1)) = (· + 1) := by
    funext v
    bv_omega
  have hdec : (fun v : Byte => BitVec.ofNat 8 (v.toNat + 255)) = (· - 1) := by
    funext v
    bv_omega
  refine ⟨modifies_of_exec (fun _ => rfl) (by decide) (fun m s => ?inc) fun _ _ _ _ _ => rfl,
    modifies_of_exec (fun _ => rfl) (by decide) (fun m s => ?dec) fun _ _ _ _ _ => rfl⟩
  case inc => rw [hinc, ← State.setNZ_eq]; rfl
  case dec => rw [hdec, ← State.setNZ_eq]; rfl

/-- Settles O9: each is its register's write. -/
theorem incrementRegisterResults : Obligations.IncrementRegisterResults := by
  refine ⟨implied_of_exec rfl (fun s => ?inx) fun _ => ⟨rfl, rfl⟩,
    implied_of_exec rfl (fun s => ?iny) fun _ => ⟨rfl, rfl⟩,
    implied_of_exec rfl (fun s => ?dex) fun _ => ⟨rfl, rfl⟩,
    implied_of_exec rfl (fun s => ?dey) fun _ => ⟨rfl, rfl⟩⟩
  case inx | dex => rw [← State.loadX_eq]; rfl
  case iny | dey => rw [← State.loadY_eq]; rfl

end Sys2Proof.Machine

/-! ## Shifts and rotates (O10)

The model shifts and rotates bit by bit, the statement doubles and halves: the bit shifted in finds its place
clear, so that writing it there is adding it. -/

namespace Sys2Proof.Machine

open Sys2Proof.Ref

theorem or_twoPow_eq_add {w i : Nat} {x : BitVec w} (clear : x.getLsbD i = false) :
    x ||| BitVec.twoPow w i = x + BitVec.twoPow w i := by
  have hdisjoint : x &&& BitVec.twoPow w i = 0#w := by
    rw [BitVec.and_twoPow, clear]
    rfl
  exact (BitVec.add_eq_or_of_and_eq_zero _ _ hdisjoint).symm

/-! ### The bit shifted in -/

theorem shiftLeft_one_eq (m : Byte) : m <<< 1 = shiftLeft false m := by
  rw [shiftLeft]
  bv_omega

theorem ushiftRight_one_eq (m : Byte) : m >>> 1 = shiftRight false m := by
  rw [shiftRight]
  bv_omega

theorem rolByte_eq (m : Byte) (c : Bool) : rolByte m c = shiftLeft c m := by
  cases c
  case false => exact BitVec.or_zero.trans (shiftLeft_one_eq m)
  case true =>
    have hclear : (m <<< 1).getLsbD 0 = false := by simp
    have hsum : rolByte m true = m <<< 1 + 1 := or_twoPow_eq_add hclear
    rw [hsum, shiftLeft]
    bv_omega

theorem rorByte_eq (m : Byte) (c : Bool) : rorByte m c = shiftRight c m := by
  cases c
  case false => exact BitVec.or_zero.trans (ushiftRight_one_eq m)
  case true =>
    have hclear : (m >>> 1).getLsbD 7 = false := by simp
    have hsum : rorByte m true = m >>> 1 + 128 := or_twoPow_eq_add hclear
    rw [hsum, shiftRight]
    bv_omega

/-! ### The bit shifted out -/

theorem getLsbD_seven_eq_top (v : Byte) : v.getLsbD 7 = top v := getLsbD_seven v

theorem getLsbD_zero_eq_bottom (v : Byte) : v.getLsbD 0 = bottom v := Nat.testBit_zero v.toNat

theorem setNZ_setC_eq (s : State) (b : Bool) (r : Byte) :
    (s.setC b).setNZ r = { setC b s with p := nz (setC b s).p r } :=
  State.setNZ_eq _ r

/-- Settles O10: each is one `State.modifyOperand`, the bit shifted out written to C, and N and Z of the byte
stored. -/
theorem shiftResults : Obligations.ShiftResults := by
  refine ⟨modifies_of_exec (fun _ => rfl) (by decide) (fun m s => ?asl) fun _ _ _ _ _ => rfl,
    modifies_of_exec (fun _ => rfl) (by decide) (fun m s => ?lsr) fun _ _ _ _ _ => rfl,
    modifies_of_exec (fun _ => rfl) (by decide) (fun m s => ?rol) fun _ _ _ _ _ => rfl,
    modifies_of_exec (fun _ => rfl) (by decide) (fun m s => ?ror) fun _ _ _ _ _ => rfl⟩
  case asl => simp only [exec, execAsl, shiftLeft_one_eq, getLsbD_seven_eq_top, setNZ_setC_eq]
  case lsr => simp only [exec, execLsr, ushiftRight_one_eq, getLsbD_zero_eq_bottom, setNZ_setC_eq]
  case rol => simp only [exec, execRol, rolByte_eq, getLsbD_seven_eq_top, setNZ_setC_eq]
  case ror => simp only [exec, execRor, rorByte_eq, getLsbD_zero_eq_bottom, setNZ_setC_eq]

end Sys2Proof.Machine

/-! ## Control transfer (O11, O12, O13, O14, O15)

The model makes a word of two bytes by appending them, steps SP one byte at a time and adds a sign-extended
offset; the statements count in natural numbers and integers. Each conversion is one lemma, and
`branches_of_exec` does for a branch what `implied_of_exec` does for a one-byte instruction. -/

namespace Sys2Proof.Machine

open Sys2Proof.Ref

/-! ### Words, bytes and SP in natural numbers -/

theorem wordOf_eq_ofNat (lo hi : Byte) : wordOf lo hi = BitVec.ofNat 16 (256 * hi.toNat + lo.toNat) := by
  rw [← wordOf_toNat, BitVec.ofNat_toNat, BitVec.setWidth_eq]

theorem wordOf_add_one (lo hi : Byte) : wordOf lo hi + 1 = BitVec.ofNat 16 (256 * hi.toNat + lo.toNat + 1) := by
  rw [wordOf_eq_ofNat]
  exact (BitVec.ofNat_add _ 1).symm

theorem hiByte_eq_ofNat (w : Addr) : hiByte w = BitVec.ofNat 8 (w.toNat / 256) := by
  rw [← hiByte_toNat, BitVec.ofNat_toNat, BitVec.setWidth_eq]

theorem loByte_eq_ofNat (w : Addr) : loByte w = BitVec.ofNat 8 w.toNat := by
  apply BitVec.eq_of_toNat_eq
  rw [loByte_toNat, BitVec.toNat_ofNat]

theorem sub_one_sub_one (b : Byte) : b - 1 - 1 = b - 2 := sub_sub b 1 1

theorem sub_two_sub_one (b : Byte) : b - 2 - 1 = b - 3 := sub_sub b 2 1

theorem add_one_add_one (b : Byte) : b + 1 + 1 = b + 2 := add_assoc b 1 1

theorem add_two_add_one (b : Byte) : b + 2 + 1 = b + 3 := add_assoc b 2 1

/-! ### Jumps, calls and returns -/

/-- Settles O11: the effective address of each form is `State.locate`'s. -/
theorem jumpResults : Obligations.JumpResults := by
  refine ⟨fun a s => ⟨rfl, rfl⟩, fun p s => ⟨rfl, ?_⟩⟩
  simp only [exec, execJmp, State.locate_ind, State.jump, State.charge, State.memRead_cycles, wordOf_eq_ofNat]

/-- Settles O12: JSR is one `State.push16`, RTS one `State.pull16`. -/
theorem callResults : Obligations.CallResults := by
  refine ⟨fun a s => ⟨rfl, ?jsr⟩, rfl, fun s => ?rts⟩
  case jsr =>
    simp only [exec, execJsr, State.push16_eq, State.jump, State.charge, hiByte_eq_ofNat, loByte_eq_ofNat,
      sub_one_sub_one]
  case rts =>
    simp only [exec, execRts, State.pull16_eq, State.jump, State.charge, wordOf_add_one, add_one_add_one]

/-- Settles O13: BRK is the interrupt entry at PC + 2 with B set, which does not ask for I. -/
theorem breakResult : Obligations.BreakResult := by
  refine ⟨rfl, fun s => ?_⟩
  simp only [exec, execBrk, State.interrupt_eq, State.read16, State.charge, State.memRead_cycles, wordOf_eq_ofNat,
    hiByte_eq_ofNat, loByte_eq_ofNat, Flags.pushed_true, sub_one_sub_one, sub_two_sub_one]
  rw [show irqVector + 1 = 0xFFFF from rfl, irqVector]

/-- Settles O14: RTI is the return from an interrupt. -/
theorem returnFromInterruptResult : Obligations.ReturnFromInterruptResult := by
  refine ⟨rfl, fun s => ?_⟩
  simp only [exec, execRti, State.returnFromInterrupt_eq, State.charge, Flags.ofByte, wordOf_eq_ofNat,
    add_one_add_one, add_two_add_one]

/-! ### Branches -/

theorem branchNext_toNat (pc : Addr) : (pc + 2).toNat = (pc.toNat + 2) % 65536 := BitVec.toNat_add pc 2

theorem branchTarget_toNat (pc : Addr) (off : Byte) :
    (pc + 2 + off.signExtend 16).toNat = (((pc.toNat : Int) + 2 + off.toInt) % 65536).toNat := by
  have hoff : (off.signExtend 16).toNat = (off.toInt % 65536).toNat := BitVec.toNat_ofInt off.toInt
  rw [BitVec.toNat_add, branchNext_toNat]
  omega

theorem State.branch_taken (s : State) (off : Byte) :
    s.branch true off = { s with
      pc := s.pc + 2 + off.signExtend 16
      cycles := s.cycles + (3 + (pageCross (s.pc + 2) (s.pc + 2 + off.signExtend 16)).toNat) } := rfl

theorem State.branch_notTaken (s : State) (off : Byte) :
    s.branch false off = { s with pc := s.pc + 2, cycles := s.cycles + 2 } := rfl

/-- A branch on `cond` of the flags; what is left of it is its opcode and its condition. -/
theorem branches_of_exec {i : Byte → Instr} {op : Byte} {cond : Flags → Bool}
    (code : ∀ off, encode (i off) = [op, off])
    (result : ∀ off s, exec (i off) s = .next (s.branch (cond s.p) off)) : Branches i op cond := by
  refine fun off s => ⟨code off, fun taken => ?_, fun notTaken => ?_⟩
  · rw [result, taken, State.branch_taken, pageCross_eq, Bool.toNat, Bool.cond_decide, ← Nat.add_assoc,
      ← branchNext_toNat, ← branchTarget_toNat, BitVec.ofNat_toNat, BitVec.setWidth_eq]
  · rw [result, notTaken, State.branch_notTaken, ← branchNext_toNat, BitVec.ofNat_toNat, BitVec.setWidth_eq]

/-- Settles O15: the eight branches are `State.branch` on their conditions. -/
theorem branchResults : Obligations.BranchResults :=
  ⟨branches_of_exec (fun _ => rfl) fun _ _ => rfl, branches_of_exec (fun _ => rfl) fun _ _ => rfl,
    branches_of_exec (fun _ => rfl) fun _ _ => rfl, branches_of_exec (fun _ => rfl) fun _ _ => rfl,
    branches_of_exec (fun _ => rfl) fun _ _ => rfl, branches_of_exec (fun _ => rfl) fun _ _ => rfl,
    branches_of_exec (fun _ => rfl) fun _ _ => rfl, branches_of_exec (fun _ => rfl) fun _ _ => rfl⟩

end Sys2Proof.Machine

/-! ## Flag instructions and NOP (O16)

Each operation of the model writes at most one flag and then runs `State.implied`; none of them writes PC or the
counter itself, which is what `implied_of_exec` asks for. -/

namespace Sys2Proof.Machine

/-- Settles O16: the seven flag instructions are one flag's write each, NOP none. -/
theorem flagResults : Obligations.FlagResults :=
  ⟨implied_of_exec rfl (fun _ => rfl) fun _ => ⟨rfl, rfl⟩, implied_of_exec rfl (fun _ => rfl) fun _ => ⟨rfl, rfl⟩,
    implied_of_exec rfl (fun _ => rfl) fun _ => ⟨rfl, rfl⟩, implied_of_exec rfl (fun _ => rfl) fun _ => ⟨rfl, rfl⟩,
    implied_of_exec rfl (fun _ => rfl) fun _ => ⟨rfl, rfl⟩, implied_of_exec rfl (fun _ => rfl) fun _ => ⟨rfl, rfl⟩,
    implied_of_exec rfl (fun _ => rfl) fun _ => ⟨rfl, rfl⟩, implied_of_exec rfl (fun _ => rfl) fun _ => ⟨rfl, rfl⟩⟩

end Sys2Proof.Machine

/-! ## Illegal and unimplemented opcodes (O17, O18, O19, O20)

A combined opcode is a read-modify-write of the shifts, INC or DEC, and then an operation on A whose lemma stands
above. `drops_of_exec` does for a NOP that reads what `reads_of_exec` does for an instruction that uses the
byte. -/

namespace Sys2Proof.Machine

open Sys2Proof.Ref

/-! ### Combined read-modify-write opcodes -/

theorem add_one_eq_ofNat (v : Byte) : v + 1 = BitVec.ofNat 8 (v.toNat + 1) := by
  bv_omega

theorem sub_one_eq_ofNat (v : Byte) : v - 1 = BitVec.ofNat 8 (v.toNat + 255) := by
  bv_omega

theorem State.setC_eq (s : State) (b : Bool) : s.setC b = Ref.setC b s := rfl

/-- Settles O17: one `State.modifyOperand` each, the bit shifted out written to C, and then A's write; RRA's is
the sum, which takes the new C as its carry in. -/
theorem shiftAndLogicResults : Obligations.ShiftAndLogicResults := by
  refine ⟨modifies_of_exec (fun _ => rfl) (by decide) (fun m s => ?slo) fun _ _ _ _ _ => rfl,
    modifies_of_exec (fun _ => rfl) (by decide) (fun m s => ?rla) fun _ _ _ _ _ => rfl,
    modifies_of_exec (fun _ => rfl) (by decide) (fun m s => ?sre) fun _ _ _ _ _ => rfl,
    modifies_of_exec (fun _ => rfl) (by decide) (fun m s => ?rra) fun _ _ _ _ _ => rfl⟩
  case slo => simp only [exec, execSlo, shiftLeft_one_eq, getLsbD_seven_eq_top, State.setC_eq, State.loadA_eq]
  case rla => simp only [exec, execRla, rolByte_eq, getLsbD_seven_eq_top, State.setC_eq, State.loadA_eq]
  case sre => simp only [exec, execSre, ushiftRight_one_eq, getLsbD_zero_eq_bottom, State.setC_eq, State.loadA_eq]
  case rra => simp only [exec, execRra, rorByte_eq, getLsbD_zero_eq_bottom, State.setC_eq, State.addC_eq_adc]

/-- Settles O18: DCP compares A with the byte it stored, ISB adds that byte's complement. -/
theorem stepAndArithmeticResults : Obligations.StepAndArithmeticResults := by
  refine ⟨modifies_of_exec (fun _ => rfl) (by decide) (fun m s => ?dcp) fun _ _ _ _ _ => rfl,
    modifies_of_exec (fun _ => rfl) (by decide) (fun m s => ?isb) fun _ _ _ _ _ => rfl⟩
  case dcp => simp only [exec, execDcp, sub_one_eq_ofNat, State.compare_eq]
  case isb => simp only [exec, execIsb, add_one_eq_ofNat, State.addC_complement_eq_sbc]

/-! ### NOPs and unimplemented opcodes -/

/-- A NOP that reads its operand; its base cycles and its penalty are those of a read in its mode. -/
theorem drops_of_exec {i : Instr} {m : AddrMode} {base : Nat} {penalty : Bool}
    (cost : readCycles m = base ∧ m.name.mayCross = penalty)
    (result : ∀ s, exec i s = .next (s.readOperand m).2) : Drops i m base penalty := by
  obtain ⟨rfl, rfl⟩ := cost
  intro s
  rw [result, State.readOperand_eq, operand_eq, m.size_eq, State.mayCross_and_cross, Nat.add_assoc]

/-- Settles O19: the one-byte form is `State.implied`, the others are one `State.readOperand` whose byte is
dropped. -/
theorem illegalNopResults : Obligations.IllegalNopResults :=
  ⟨fun _ _ => implied_of_exec rfl (fun _ => rfl) fun _ => ⟨rfl, rfl⟩,
    fun _ _ _ => ⟨rfl, drops_of_exec ⟨rfl, rfl⟩ fun _ => rfl⟩,
    fun _ _ _ => ⟨rfl, drops_of_exec ⟨rfl, rfl⟩ fun _ => rfl⟩,
    fun _ _ _ => ⟨rfl, drops_of_exec ⟨rfl, rfl⟩ fun _ => rfl⟩,
    fun _ => ⟨rfl, drops_of_exec ⟨rfl, rfl⟩ fun _ => rfl⟩,
    fun _ _ _ => ⟨rfl, drops_of_exec ⟨rfl, rfl⟩ fun _ => rfl⟩⟩

/-- Under the policy `nop2` an unimplemented opcode is a one-byte NOP (46 R376). -/
theorem State.unimplemented_eq (s : State) (op : Byte) : s.unimplemented op = .next (s.implied 2) := rfl

theorem implied_of_unimplemented {i : Instr} {op : Byte} (code : encode i = [op])
    (result : ∀ s, exec i s = s.unimplemented op) : Implied i op 2 (fun s => s) :=
  implied_of_exec code (fun s => (result s).trans (s.unimplemented_eq op)) fun _ => ⟨rfl, rfl⟩

/-- Settles O20: each is `State.unimplemented` of its own opcode byte. -/
theorem unimplementedResults : Obligations.UnimplementedResults :=
  ⟨fun _ _ => implied_of_unimplemented rfl fun _ => rfl, fun _ _ => implied_of_unimplemented rfl fun _ => rfl,
    fun _ _ => implied_of_unimplemented rfl fun _ => rfl, implied_of_unimplemented rfl fun _ => rfl,
    implied_of_unimplemented rfl fun _ => rfl, implied_of_unimplemented rfl fun _ => rfl,
    implied_of_unimplemented rfl fun _ => rfl, implied_of_unimplemented rfl fun _ => rfl,
    implied_of_unimplemented rfl fun _ => rfl, implied_of_unimplemented rfl fun _ => rfl,
    implied_of_unimplemented rfl fun _ => rfl, implied_of_unimplemented rfl fun _ => rfl⟩

end Sys2Proof.Machine

/-! ## Interrupts and returns (O25, O26, O27)

`State.interrupt_eq` and `State.returnFromInterrupt_eq` speak of work RAM. The entry's bytes stand in three different
places of the stack page, which is why a return reads back what was pushed. -/

namespace Sys2Proof.Machine

/-! ### The interrupt entry and the poll -/

/-- Bit 5 of the status byte is set and bit 4 is B (10 R39). -/
theorem Flags.pushed_eq (p : Flags) (b : Bool) :
    p.pushed b = (p.toByte &&& 0xEF) ||| (if b then 0x30 else 0x20) := by
  cases b
  · exact BitVec.or_zero
  · exact BitVec.or_assoc _ _ _

/-- Settles O25: `State.interrupt_eq` with bytes and words in natural numbers. -/
theorem interruptEntry : Obligations.InterruptEntry := by
  intro s ret vector b
  simp only [State.interrupt_eq, State.read16, hiByte_eq_ofNat, loByte_eq_ofNat, Flags.pushed_eq, sub_one_sub_one,
    sub_two_sub_one, wordOf_eq_ofNat]

theorem State.nmiService_eq (s : State) :
    s.nmiService = { ({ s with nmiPending := false }).interrupt s.pc 0xFFFA false with cycles := s.cycles + 7 } := by
  rw [State.nmiService, State.charge, State.interrupt_cycles, nmiVector]

theorem State.irqService_eq (s : State) :
    s.irqService = { s.interrupt s.pc 0xFFFE false with cycles := s.cycles + 7 } := by
  rw [State.irqService, State.charge, State.interrupt_cycles, irqVector]

theorem State.cpuStep_nmi {s : State} (nmi : s.nmiPending = true) : s.cpuStep = .next s.nmiService := by
  rw [State.cpuStep, if_pos nmi]

theorem State.cpuStep_irq {s : State} (nmi : s.nmiPending = false) (irq : s.irqLine = true) (i : s.p.i = false) :
    s.cpuStep = .next s.irqService := by
  simp [State.cpuStep, nmi, irq, i]

theorem State.cpuStep_fetched {s : State} (nmi : s.nmiPending = false) (irq : s.irqLine = false ∨ s.p.i = true) :
    s.cpuStep = exec s.fetch.1 s.fetch.2 := by
  rcases irq with irq | i
  · simp [State.cpuStep, nmi, irq]
  · simp [State.cpuStep, nmi, i]

/-- Settles O26: the two services cost 7 cycles past their entry, which costs none. -/
theorem pollOrder : Obligations.PollOrder := by
  intro s
  refine ⟨fun nmi => ?_, fun nmi irq i => ?_, State.cpuStep_fetched⟩
  · rw [State.cpuStep_nmi nmi, State.nmiService_eq]
  · rw [State.cpuStep_irq nmi irq i, State.irqService_eq]

/-! ### Returns -/

/-- P as a byte of the stack gives back P, whatever B was pushed as (10 R39, R43). -/
theorem Flags.ofByte_pushed (p : Flags) (b : Bool) : Flags.ofByte (p.pushed b) = p := by
  obtain ⟨n, v, d, i, z, c⟩ := p
  revert n v d i z c b
  decide

/-- The bytes an entry pushes stand in three places of the stack page (20 R84). -/
theorem stack_places_ne (sp : Byte) : 256 + (sp - 1).toNat ≠ 256 + sp.toNat ∧
    256 + (sp - 1 - 1).toNat ≠ 256 + sp.toNat ∧ 256 + (sp - 1 - 1).toNat ≠ 256 + (sp - 1).toNat := by
  refine ⟨?_, ?_, ?_⟩ <;> bv_omega

theorem stack_place_lt (sp : Byte) : 256 + sp.toNat < 2048 := by
  have := sp.isLt
  omega

/-- The return of any machine whose stack holds the three bytes an entry pushed. -/
theorem State.returnFromInterrupt_of_pushed {m : Memory} (wf : m.wf 2048 = true) {r : State} {sp : Byte} {ret : Addr}
    {p : Flags} {b : Bool} (hsp : r.sp = sp - 1 - 1 - 1)
    (hram : r.ram = ((m.write (256 + sp.toNat) (hiByte ret)).write (256 + (sp - 1).toNat) (loByte ret)).write
      (256 + (sp - 1 - 1).toNat) (p.pushed b)) :
    r.returnFromInterrupt = { r with pc := ret, p := p, sp := sp } := by
  obtain ⟨ne1, ne2, ne3⟩ := stack_places_ne sp
  have wf1 := Memory.write_wf wf (stack_place_lt sp) (hiByte ret)
  have wf2 := Memory.write_wf wf1 (stack_place_lt (sp - 1)) (loByte ret)
  have status := Memory.read_write_same wf2 (256 + (sp - 1 - 1).toNat) (p.pushed b)
  have low := Memory.read_write_same wf1 (256 + (sp - 1).toNat) (loByte ret)
  have high := Memory.read_write_same wf (256 + sp.toNat) (hiByte ret)
  rw [State.returnFromInterrupt_eq, hsp, hram]
  simp only [sub_add_cancel, status, Memory.read_write_ne ne3, low, Memory.read_write_ne ne2,
    Memory.read_write_ne ne1, high, wordOf_bytes, Flags.ofByte_pushed]

/-- A pull after a push gives back the word and SP; work RAM keeps the bytes. -/
theorem State.pull16_of_pushed {m : Memory} (wf : m.wf 2048 = true) {r : State} {sp : Byte} {w : Addr}
    (hsp : r.sp = sp - 1 - 1)
    (hram : r.ram = (m.write (256 + sp.toNat) (hiByte w)).write (256 + (sp - 1).toNat) (loByte w)) :
    r.pull16 = (w, { r with sp := sp }) := by
  have wf1 := Memory.write_wf wf (stack_place_lt sp) (hiByte w)
  have low := Memory.read_write_same wf1 (256 + (sp - 1).toNat) (loByte w)
  have high := Memory.read_write_same wf (256 + sp.toNat) (hiByte w)
  rw [State.pull16_eq, hsp, hram]
  simp only [sub_add_cancel, low, Memory.read_write_ne (stack_places_ne sp).1, high, wordOf_bytes]

/-- Settles O27: the vector reads of the entry leave work RAM and the registers, and neither return writes work RAM. -/
theorem returnsUndoCalls : Obligations.ReturnsUndoCalls := by
  refine ⟨fun s ret vector b wf => ?entry, fun s t u a wf call ret => ?call⟩
  case entry =>
    dsimp only
    rw [State.returnFromInterrupt_of_pushed (r := s.interrupt ret vector b) (ret := ret) (p := s.p) (b := b)
      (sp := s.sp) wf (by simp [State.interrupt_eq]) (by simp [State.interrupt_eq])]
    simp [State.interrupt_eq]
  case call =>
    cases call
    cases ret
    rw [State.pull16_of_pushed (sp := s.sp) (w := s.pc + 2) wf (by simp [State.push16_eq]) (by simp [State.push16_eq])]
    simp only [State.push16_eq, State.jump, State.charge]
    congr 1
    exact add_assoc s.pc 2 1

end Sys2Proof.Machine

/-! ## The fetched instruction and the end of a step (O31, O36) -/

namespace Sys2Proof.Machine

open Sys2Proof.Ref

/-- The bytes a fetch reads are those of the instruction they decode to (30 R154). -/
theorem State.fetch_of_decode {s f : State} {n : Nat} {bytes : List Byte} {i : Instr}
    (read : readBytes n s.pc s = (bytes, f)) (dec : decode bytes = .ok (i, [])) : s.fetch = (i, f) := by
  have third : s.pc + 2 = s.pc + 1 + 1 := (add_assoc s.pc 1 1).symm
  obtain ⟨rfl, rfl⟩ := Prod.mk.inj read
  obtain _ | n := n
  · cases dec
  obtain ⟨len, eq⟩ | ⟨len, eq⟩ | ⟨len, eq⟩ :=
    decode_cons (s.memRead s.pc).1 (readBytes n (s.pc + 1) (s.memRead s.pc).2).1
  · obtain _ | n := n
    · cases eq.symm.trans dec
      rw [State.fetch, if_pos len]
      rfl
    · cases eq.symm.trans dec
  · obtain _ | _ | n := n
    · cases eq.symm.trans dec
    · cases eq.symm.trans dec
      rw [State.fetch, if_neg (by omega), if_pos len]
      rfl
    · cases eq.symm.trans dec
  · obtain _ | _ | _ | n := n
    · cases eq.symm.trans dec
    · cases eq.symm.trans dec
    · cases eq.symm.trans dec
      rw [State.fetch, if_neg (by omega), if_neg (by omega), third]
      rfl
    · cases eq.symm.trans dec

/-- Settles O31: the fetch reads exactly the decoded bytes, and `step_of_cpuStep` does the rest. -/
theorem stepRunsDecoded : Obligations.StepRunsDecoded := by
  intro s f t n bytes i cart nmi irq read dec run
  refine step_of_cpuStep cart ?_
  rw [State.cpuStep_fetched nmi irq, State.fetch_of_decode read dec, run]

/-! ### The device ticks -/

/-- After the dots, the ticks change the audio chip, the cartridge's registers, the IRQ line, and at most the frame
and the draw counter. -/
theorem State.tickDevices_eq (n : Nat) (s u : State) (hu : State.ppuDots (3 * n) s = u) :
    ∃ frame draws, s.tickDevices n = { ((State.apuTicks n u).clockMapper n).sampleIrq with
      ppu := { u.ppu with frame := frame }, draws := draws } := by
  have ppu : (State.apuTicks n u).ppu = u.ppu := by rw [State.apuTicks_eq]; rfl
  rcases State.tickDevices_cases n s u hu with ⟨-, e⟩ | ⟨-, e⟩
  · rw [e, ← ppu]
    exact ⟨_, _, rfl⟩
  · rw [e, ← ppu]
    exact ⟨_, _, rfl⟩

/-- The IRQ line is the OR of its three sources as the ticks leave them (60 R406). -/
theorem State.tickDevices_irqLine (n : Nat) (s : State) : (s.tickDevices n).irqLine =
    ((s.tickDevices n).apu.frameIrq || (s.tickDevices n).apu.dmcIrq || (s.tickDevices n).cart.any (·.irq)) := by
  obtain ⟨frame, draws, e⟩ := State.tickDevices_eq n s _ rfl
  rw [e]
  rfl

/-- Settles O36: the ticks end with the sampled line, and clearing the pulses leaves it and its sources. -/
theorem irqLineFollowsSources : Obligations.IrqLineFollowsSources := by
  intro s t ht
  obtain ⟨c, u, -, -, rfl⟩ := step_next ht
  exact ⟨State.tickDevices_irqLine _ u, rfl, rfl⟩

end Sys2Proof.Machine

/-! ## What no bus access changes

The processor acts on the rest of the machine through `MemRead` and `MemWrite` alone. So a property of the rest need
only be checked of a read and of a write: `BusStable.cpuStep` carries it over every instruction and both services. -/

namespace Sys2Proof.Machine

/-- A property of the machine that every bus access keeps and that does not speak of the processor's registers.
Everything the processor does is made of bus accesses and register writes, so it keeps such a property. -/
structure BusStable (P : State → Prop) : Prop where
  withCpu : ∀ {s : State} (c : State), P s → P (s.withCpu c)
  memRead : ∀ {s : State} (a : Addr), P s → P (s.memRead a).2
  memWrite : ∀ {s : State} (a : Addr) (v : Byte), P s → P (s.memWrite a v)

section

variable {P : State → Prop} (h : BusStable P) {s : State}
include h

/-- The processor's registers may be written at will. -/
theorem BusStable.of_cpu {t : State} (hs : P s) (ht : t = s.withCpu t) : P t := by
  rw [ht]
  exact h.withCpu t hs

theorem BusStable.read16 (a : Addr) (hs : P s) : P (s.read16 a).2 := h.memRead _ (h.memRead a hs)

theorem BusStable.push (v : Byte) (hs : P s) : P (s.push v) := h.of_cpu (h.memWrite s.stackAddr v hs) rfl

theorem BusStable.push16 (w : Addr) (hs : P s) : P (s.push16 w) := h.push _ (h.push _ hs)

theorem BusStable.pull (hs : P s) : P s.pull.2 := h.memRead _ (h.of_cpu hs rfl)

theorem BusStable.pull16 (hs : P s) : P s.pull16.2 := h.pull (h.pull hs)

theorem BusStable.interrupt (ret vector : Addr) (b : Bool) (hs : P s) : P (s.interrupt ret vector b) :=
  h.of_cpu (h.read16 vector (h.of_cpu (h.push (s.p.pushed b) (h.push16 ret hs)) rfl)) rfl

theorem BusStable.returnFromInterrupt (hs : P s) : P s.returnFromInterrupt :=
  h.of_cpu (h.pull16 (h.of_cpu (h.pull hs) rfl)) rfl

theorem BusStable.branch (cond : Bool) (off : Byte) (hs : P s) : P (s.branch cond off) := by
  cases cond <;> exact h.of_cpu hs rfl

theorem BusStable.locate (m : AddrMode) (hs : P s) : P (s.locate m).state := by
  cases m with
  | ind _ | izx _ | izy _ => exact h.memRead _ (h.memRead _ hs)
  | _ => exact hs

theorem BusStable.readOperand (m : AddrMode) (hs : P s) : P (s.readOperand m).2 := by
  cases m with
  | acc | imm _ => exact h.of_cpu hs rfl
  | _ => exact h.of_cpu (h.memRead _ (h.of_cpu (h.locate _ hs) rfl)) rfl

theorem BusStable.storeOperand (m : AddrMode) (v : Byte) (hs : P s) : P (s.storeOperand m v) :=
  h.of_cpu (h.memWrite _ v (h.of_cpu (h.locate m hs) rfl)) rfl

theorem BusStable.modifyOperand (m : AddrMode) (f : Byte → Byte) (hs : P s) : P (s.modifyOperand m f).state := by
  cases m with
  | acc => exact h.of_cpu hs rfl
  | _ => exact h.of_cpu (h.memWrite _ _ (h.memRead _ (h.of_cpu (h.locate _ hs) rfl))) rfl

theorem BusStable.exec {i : Instr} {t : State} (ht : exec i s = .next t) (hs : P s) : P t := by
  cases i with
  | lda m | ldx m | ldy m | lax m | adc m | sbc m | and m | ora m | eor m | bit m | cmp m | cpx m | cpy m =>
    cases ht; exact h.of_cpu (h.readOperand m hs) rfl
  | sbcEB v | nopImm _ v => cases ht; exact h.of_cpu (h.readOperand (.imm v) hs) rfl
  | nopZp _ a => cases ht; exact h.readOperand (.zp a) hs
  | nopZpx _ a => cases ht; exact h.readOperand (.zpx a) hs
  | nopAbs a => cases ht; exact h.readOperand (.abs a) hs
  | nopAbsx _ a => cases ht; exact h.readOperand (.absx a) hs
  | sta m | stx m | sty m | sax m => cases ht; exact h.storeOperand m _ hs
  | inc m | dec m | slo m | rla m | sre m | rra m | dcp m | isb m | asl m | lsr m | rol m | ror m =>
    cases ht; exact h.of_cpu (h.modifyOperand m _ hs) rfl
  | bpl off | bmi off | bvc off | bvs off | bcc off | bcs off | bne off | beq off =>
    cases ht; exact h.branch _ off hs
  | tax | tay | txa | tya | tsx | txs | inx | iny | dex | dey | clc | sec | cli | sei | clv | cld | sed | nop
  | nopImp _ | jam _ | anc _ | alr | arr | xaa | lxa | axs | ahx _ | tas | shy | shx | las =>
    cases ht; exact h.of_cpu hs rfl
  | pha | php => cases ht; exact h.of_cpu (h.push _ hs) rfl
  | pla | plp => cases ht; exact h.of_cpu (h.pull hs) rfl
  | jmp m => cases ht; exact h.of_cpu (h.locate m hs) rfl
  | jsr target => cases ht; exact h.of_cpu (h.push16 _ hs) rfl
  | rts => cases ht; exact h.of_cpu (h.pull16 hs) rfl
  | rti => cases ht; exact h.of_cpu (h.returnFromInterrupt hs) rfl
  | brk => cases ht; exact h.of_cpu (h.interrupt _ _ true hs) rfl

theorem BusStable.fetch (hs : P s) : P s.fetch.2 := by
  have op := h.memRead s.pc hs
  have b1 := h.memRead (s.pc + 1) op
  unfold State.fetch
  dsimp only
  split
  · exact op
  split
  · exact b1
  · exact h.memRead (s.pc + 2) b1

/-- The two services and the fetched instruction. -/
theorem BusStable.cpuStep {t : State} (ht : s.cpuStep = .next t) (hs : P s) : P t := by
  rcases s.cpuStep_cases with ⟨-, e⟩ | ⟨-, -, -, e⟩ | ⟨-, -, e⟩
  · cases e.symm.trans ht
    exact h.of_cpu (h.interrupt _ _ false (h.of_cpu hs rfl)) rfl
  · cases e.symm.trans ht
    exact h.of_cpu (h.interrupt _ _ false hs) rfl
  · exact h.exec (e.symm.trans ht) (h.fetch hs)

end

end Sys2Proof.Machine

/-! ## Steps complete (O32) -/

namespace Sys2Proof.Machine

/-! ### A cartridge stays in -/

theorem State.dotEvents_cart_isSome (s : State) : s.dotEvents.cart.isSome = s.cart.isSome := by
  apply State.dotEvents_cases (P := fun t => t.cart.isSome = s.cart.isSome)
  case zero =>
    intro px
    unfold State.spriteZeroTest
    split <;> rfl
  case clock =>
    unfold State.scanlineClock
    split
    · exact Option.isSome_map
    · rfl
  all_goals rfl

theorem State.ppuDots_cart_isSome (n : Nat) (s : State) : (State.ppuDots n s).cart.isSome = s.cart.isSome := by
  induction n generalizing s with
  | zero => rfl
  | succ n ih => exact (ih s.ppuDot).trans s.dotEvents_cart_isSome

theorem State.tickDevices_cart_isSome (n : Nat) (s : State) :
    (s.tickDevices n).cart.isSome = s.cart.isSome := by
  obtain ⟨frame, draws, e⟩ := State.tickDevices_eq n s _ rfl
  rw [e, ← State.ppuDots_cart_isSome (3 * n) s, State.apuTicks_eq]
  exact Option.isSome_map

/-! ### What a step completes with -/

/-- PRG-ROM is in a cartridge. -/
theorem State.cart_isSome_of_memories {s t : State} (h : t.memories.prgRom = s.memories.prgRom)
    (hs : s.cart.isSome = true) : t.cart.isSome = true := by
  have e := congrArg Option.isSome h
  rwa [State.memories, State.memories, Option.isSome_map, Option.isSome_map, hs] at e

theorem busStable_cart_isSome : BusStable fun s => s.cart.isSome = true where
  withCpu _ h := h
  memRead a := State.cart_isSome_of_memories (congrArg Memories.prgRom (State.memRead_memories _ a))
  memWrite a v := State.cart_isSome_of_memories (State.memWrite_sameOutside _ a v).prgRom

theorem State.fetch_cycles (s : State) : s.fetch.2.cycles = s.cycles := by
  rw [s.fetch_state.1]
  rfl

/-- A processor step goes on, in the 7 cycles of a service or those of the fetched instruction (60 R409, R423). -/
theorem State.cpuStep_completes (s : State) :
    ∃ t, s.cpuStep = .next t ∧ s.cycles + 2 ≤ t.cycles ∧ t.cycles ≤ s.cycles + 522 := by
  rcases s.cpuStep_cases with ⟨-, e⟩ | ⟨-, -, -, e⟩ | ⟨-, -, e⟩
  · refine ⟨_, e, ?_⟩
    rw [State.nmiService_eq]
    exact ⟨by simp, by simp⟩
  · refine ⟨_, e, ?_⟩
    rw [State.irqService_eq]
    exact ⟨by simp, by simp⟩
  · obtain ⟨t, ht⟩ := exec_completes s.fetch.1 s.fetch.2
    obtain ⟨least, -, most⟩ := exec_costBounds ht
    rw [State.fetch_cycles] at least most
    exact ⟨t, e.trans ht, least, most⟩

theorem step_refuses {s : State} (h : s.cart = none) : step s = .refused .noCartridge := by
  simp [step, State.stepAndClear, State.systemStep, h]

/-- Settles O32: the processor step decides the cycles; it and the ticks leave the cartridge in. -/
theorem stepCompletes : Obligations.StepCompletes := by
  refine ⟨fun s cart => ?_, fun s => step_refuses⟩
  obtain ⟨u, hu, least, most⟩ := s.cpuStep_completes
  have cycles := (u.tickDevices_cpu (u.cycles - s.cycles)).cycles
  refine ⟨_, step_of_cpuStep cart hu, ?_, ?_, ?_⟩
  · rw [State.clearPulses_cart, State.tickDevices_cart_isSome]
    exact busStable_cart_isSome.cpuStep hu cart
  · rwa [State.clearPulses_cycles, cycles]
  · rwa [State.clearPulses_cycles, cycles]

end Sys2Proof.Machine

/-! ## Dots and clocks (O35, O37, O60)

The coordinate is one number, its dot index, which a dot raises by one modulo the 89342 of a frame; the processor step
moves neither it nor the audio chip's cycle count, so a step moves both by its ticks. -/

namespace Sys2Proof.Machine

open Sys2Proof.Ref

/-! ### The coordinate of a dot -/

/-- The coordinate is one of the frame's 262 lines of 341 dots (61 R530). -/
structure Ppu.InFrame (p : Ppu) : Prop where
  scanline : p.scanline < 262
  dot : p.dot < 341

theorem Ppu.InFrame.advance {p : Ppu} (h : p.InFrame) : p.advance.InFrame := by
  obtain ⟨hs, hd⟩ := h
  unfold Ppu.advance
  split
  · split
    · exact ⟨Nat.zero_lt_succ _, Nat.zero_lt_succ _⟩
    · exact ⟨(by omega : p.scanline + 1 < 262), Nat.zero_lt_succ _⟩
  · exact ⟨hs, (by omega : p.dot + 1 < 341)⟩

theorem Ppu.advance_dotIndex {p : Ppu} (h : p.InFrame) : dotIndex p.advance = (dotIndex p + 1) % 89342 := by
  obtain ⟨hs, hd⟩ := h
  unfold Ppu.advance dotIndex
  split
  · split
    · dsimp only
      omega
    · dsimp only
      omega
  · dsimp only
    omega

theorem State.dotEvents_dotIndex (s : State) : dotIndex s.dotEvents.ppu = dotIndex s.ppu := by
  obtain ⟨line, dot⟩ := s.dotEvents_coordinate
  rw [dotIndex, dotIndex, line, dot]

theorem State.dotEvents_inFrame {s : State} (h : s.ppu.InFrame) : s.dotEvents.ppu.InFrame := by
  obtain ⟨line, dot⟩ := s.dotEvents_coordinate
  exact ⟨line.trans_lt h.scanline, dot.trans_lt h.dot⟩

/-- Open bus is no part of the coordinate. -/
theorem Ppu.InFrame.openBusAge {p : Ppu} (h : p.InFrame) : p.openBusAge.InFrame := ⟨h.scanline, h.dot⟩

theorem State.ppuDot_inFrame {s : State} (h : s.ppu.InFrame) : s.ppuDot.ppu.InFrame :=
  (State.dotEvents_inFrame h).openBusAge.advance

theorem State.ppuDot_dotIndex {s : State} (h : s.ppu.InFrame) :
    dotIndex s.ppuDot.ppu = (dotIndex s.ppu + 1) % 89342 := by
  rw [← s.dotEvents_dotIndex]
  exact Ppu.advance_dotIndex (State.dotEvents_inFrame h).openBusAge

theorem State.ppuDots_inFrame (n : Nat) {s : State} (h : s.ppu.InFrame) : (State.ppuDots n s).ppu.InFrame := by
  induction n generalizing s with
  | zero => exact h
  | succ n ih => exact ih (State.ppuDot_inFrame h)

theorem Ppu.InFrame.dotIndex_lt {p : Ppu} (h : p.InFrame) : dotIndex p < 89342 := by
  obtain ⟨hs, hd⟩ := h
  unfold dotIndex
  omega

theorem State.ppuDots_dotIndex (n : Nat) {s : State} (h : s.ppu.InFrame) :
    dotIndex (State.ppuDots n s).ppu = (dotIndex s.ppu + n) % 89342 := by
  induction n generalizing s with
  | zero => exact (Nat.mod_eq_of_lt h.dotIndex_lt).symm
  | succ n ih =>
    rw [State.ppuDots, ih (State.ppuDot_inFrame h), State.ppuDot_dotIndex h, Nat.mod_add_mod, Nat.add_assoc,
      Nat.add_comm 1]

/-! ### The NMI request of a dot -/

theorem State.spriteZeroTest_nmiPending (s : State) (px : Nat) : (s.spriteZeroTest px).nmiPending = s.nmiPending := by
  unfold State.spriteZeroTest
  split <;> rfl

theorem State.scanlineClock_nmiPending (s : State) : s.scanlineClock.nmiPending = s.nmiPending := by
  unfold State.scanlineClock
  split <;> rfl

/-- Dot index 82182 is coordinate (241, 1), where vblank begins (61 R531). -/
theorem Ppu.InFrame.dotIndex_eq_vblank {p : Ppu} (h : p.InFrame) :
    dotIndex p = 82182 ↔ p.scanline = 241 ∧ p.dot = 1 := by
  obtain ⟨hs, hd⟩ := h
  unfold dotIndex
  omega

theorem State.dotEvents_vblank {s : State} (line : s.ppu.scanline = 241) (dot : s.ppu.dot = 1) :
    s.dotEvents = s.enterVblank := by
  simp [State.dotEvents, line, dot]

theorem State.dotEvents_nmiPending_of_ne {s : State} (h : ¬ (s.ppu.scanline = 241 ∧ s.ppu.dot = 1)) :
    s.dotEvents.nmiPending = s.nmiPending := by
  unfold State.dotEvents
  dsimp only
  split
  · split
    · rfl
    split
    · exact s.spriteZeroTest_nmiPending _
    split
    · rfl
    split
    · exact s.scanlineClock_nmiPending
    · rfl
  split
  · next line =>
    split
    · next dot => exact absurd ⟨line, dot⟩ h
    · rfl
  split
  · split
    · rfl
    split
    · exact s.scanlineClock_nmiPending
    · rfl
  · rfl

theorem State.ppuDot_nmiPending {s : State} (h : s.ppu.InFrame) :
    s.ppuDot.nmiPending = true ↔
      s.nmiPending = true ∨ (s.ppu.ctrl.getLsbD 7 = true ∧ dotIndex s.ppu = 82182) := by
  rw [h.dotIndex_eq_vblank, show s.ppuDot.nmiPending = s.dotEvents.nmiPending from rfl]
  by_cases vblank : s.ppu.scanline = 241 ∧ s.ppu.dot = 1
  · rw [State.dotEvents_vblank vblank.1 vblank.2]
    simp [State.enterVblank, Ppu.nmiEnabled, vblank]
  · rw [State.dotEvents_nmiPending_of_ne vblank]
    simp [vblank]

/-- Settles O37: by induction on the dots, each of which requests an NMI at its own index alone. -/
theorem nmiRequest : Obligations.NmiRequest := by
  intro n
  induction n with
  | zero => simp [State.ppuDots]
  | succ n ih =>
    intro s line dot
    have h : s.ppu.InFrame := ⟨line, dot⟩
    have h' := State.ppuDot_inFrame h
    have later (k : Nat) : (dotIndex s.ppuDot.ppu + k) % 89342 = (dotIndex s.ppu + (k + 1)) % 89342 := by
      rw [State.ppuDot_dotIndex h, Nat.mod_add_mod, Nat.add_assoc, Nat.add_comm 1]
    rw [State.ppuDots, ih _ h'.scanline h'.dot, State.ppuDot_nmiPending h, s.ppuDot_same.ppu_ctrl,
      Nat.exists_lt_succ_left, Nat.add_zero, Nat.mod_eq_of_lt h.dotIndex_lt, and_or_left, or_assoc]
    simp only [later]

/-! ### The clocks across the ticks -/

theorem State.tickDevices_apuCycles (n : Nat) (s : State) :
    (s.tickDevices n).apu.apuCycles = s.apu.apuCycles + n := by
  obtain ⟨frame, draws, e⟩ := State.tickDevices_eq n s _ rfl
  rw [e, ← (State.ppuDots_same (3 * n) s).apu]
  exact State.apuTicks_apuCycles n _

theorem State.tickDevices_inFrame (n : Nat) {s : State} (h : s.ppu.InFrame) : (s.tickDevices n).ppu.InFrame := by
  obtain ⟨frame, draws, e⟩ := State.tickDevices_eq n s _ rfl
  have dots := State.ppuDots_inFrame (3 * n) h
  rw [e]
  exact ⟨dots.scanline, dots.dot⟩

theorem State.tickDevices_dotIndex (n : Nat) {s : State} (h : s.ppu.InFrame) :
    dotIndex (s.tickDevices n).ppu = (dotIndex s.ppu + 3 * n) % 89342 := by
  obtain ⟨frame, draws, e⟩ := State.tickDevices_eq n s _ rfl
  rw [← State.ppuDots_dotIndex (3 * n) h, e]
  rfl

/-! ### The clocks across a processor step -/

/-- What the device ticks alone move: the video chip's coordinate and the audio chip's cycle count. -/
structure Clocks where
  scanline : Nat
  dot : Nat
  apuCycles : Nat

def State.clocks (s : State) : Clocks := ⟨s.ppu.scanline, s.ppu.dot, s.apu.apuCycles⟩

theorem State.ppuRegReadEffect_clocks (s : State) (r : BitVec 3) : (s.ppuRegReadEffect r).clocks = s.clocks := by
  unfold State.ppuRegReadEffect
  split
  · rfl
  split
  · rfl
  split
  · unfold State.dataEffect
    dsimp only
    split <;> rfl
  · rfl

theorem State.hookedRead_clocks (s : State) (a : Addr) {r : Byte × State} (hr : r.2.clocks = s.clocks) :
    (s.hookedRead a r).2.clocks = s.clocks := by
  unfold State.hookedRead
  split
  · rfl
  · exact hr

theorem State.memRead_clocks (s : State) (a : Addr) : (s.memRead a).2.clocks = s.clocks := by
  revert s
  refine State.memRead_cases (P := fun f => ∀ s : State, (f s).2.clocks = s.clocks) a ?_ ?_ ?_ ?_ ?_ ?_ ?_ ?_
  · exact fun _ _ => rfl
  · exact fun _ _ s => s.ppuRegReadEffect_clocks _
  · exact fun _ => rfl
  · exact fun _ => rfl
  · exact fun _ _ => rfl
  · exact fun s => s.hookedRead_clocks a rfl
  · exact fun _ _ s => s.hookedRead_clocks a rfl
  · intro _ s
    dsimp only
    unfold State.prgRead
    split <;> rfl

theorem State.ppuWrite_clocks (s : State) (a : BitVec 14) (v : Byte) : (s.ppuWrite a v).clocks = s.clocks := by
  unfold State.ppuWrite
  repeat' split
  all_goals rfl

theorem State.ppuRegWrite_clocks (s : State) (r : BitVec 3) (v : Byte) : (s.ppuRegWrite r v).clocks = s.clocks := by
  have h : r = 0 ∨ r = 1 ∨ r = 2 ∨ r = 3 ∨ r = 4 ∨ r = 5 ∨ r = 6 ∨ r = 7 := by revert r; decide
  rcases h with rfl | rfl | rfl | rfl | rfl | rfl | rfl | rfl
  · rfl
  · rfl
  · rfl
  · rfl
  · rfl
  · change State.clocks { s with ppu := (s.ppu.refreshAll v).writeScroll v } = _
    unfold Ppu.writeScroll
    split <;> rfl
  · change State.clocks { s with ppu := (s.ppu.refreshAll v).writeAddr v } = _
    unfold Ppu.writeAddr
    split <;> rfl
  · exact State.ppuWrite_clocks { s with ppu := s.ppu.refreshAll v } _ v

theorem Apu.writeFrameCounter_apuCycles (u : Apu) (v : Byte) : (u.writeFrameCounter v).apuCycles = u.apuCycles := by
  unfold Apu.writeFrameCounter
  dsimp only
  split <;> rfl

theorem Apu.regWrite_apuCycles (u : Apu) (a : Addr) (v : Byte) : (u.regWrite a v).apuCycles = u.apuCycles := by
  simp only [Apu.regWrite, apply_ite Apu.apuCycles, Apu.writeEnable, Apu.writeDmcControl,
    Apu.writeFrameCounter_apuCycles, ite_self]

theorem State.hookedWrite_clocks (s : State) (a : Addr) (v : Byte) {t : State} (ht : t.clocks = s.clocks) :
    (s.hookedWrite a v t).clocks = s.clocks := by
  unfold State.hookedWrite
  split
  · rfl
  · exact ht

theorem State.memWrite_clocks (s : State) (a : Addr) (v : Byte) : (s.memWrite a v).clocks = s.clocks := by
  revert s
  refine State.memWrite_cases (P := fun f => ∀ s : State, (f s).clocks = s.clocks) a v ?_ ?_ ?_ ?_ ?_ ?_ ?_ ?_ ?_
  · exact fun _ _ => rfl
  · exact fun _ _ s => s.ppuRegWrite_clocks _ v
  · intro _ s
    obtain ⟨oam, draws, frame⟩ := s.dmaCopy_frame v 256 0
    dsimp only
    rw [State.oamDma_eq, frame]
    rfl
  · exact fun _ _ => rfl
  · exact fun _ s => congrArg (Clocks.mk _ _) (s.apu.regWrite_apuCycles a v)
  · exact fun _ _ => rfl
  · exact fun _ s => s.hookedWrite_clocks a v rfl
  · exact fun _ _ s => s.hookedWrite_clocks a v rfl
  · exact fun _ _ => rfl

theorem busStable_clocks (c : Clocks) : BusStable fun s => s.clocks = c where
  withCpu _ h := h
  memRead a h := (State.memRead_clocks _ a).trans h
  memWrite a v h := (State.memWrite_clocks _ a v).trans h

theorem State.cpuStep_clocks {s t : State} (h : s.cpuStep = .next t) : t.clocks = s.clocks :=
  (busStable_clocks s.clocks).cpuStep h rfl

/-! ### The clocks across a step -/

/-- A step moves the video chip by three dots and the audio chip by one cycle for each processor cycle (60 R417). -/
theorem step_clocks {s t : State} (h : s.ppu.InFrame) (ht : step s = .next t) :
    t.ppu.InFrame ∧ s.cycles + 2 ≤ t.cycles ∧
    dotIndex t.ppu = (dotIndex s.ppu + 3 * (t.cycles - s.cycles)) % 89342 ∧
    t.apu.apuCycles = s.apu.apuCycles + (t.cycles - s.cycles) := by
  obtain ⟨c, u, -, hu, rfl⟩ := step_next ht
  obtain ⟨u', hu', least, -⟩ := s.cpuStep_completes
  cases hu.symm.trans hu'
  obtain ⟨line, dot, apu⟩ := Clocks.mk.inj (State.cpuStep_clocks hu)
  have index : dotIndex u.ppu = dotIndex s.ppu := by rw [dotIndex, dotIndex, line, dot]
  have frame : u.ppu.InFrame := ⟨line.trans_lt h.scanline, dot.trans_lt h.dot⟩
  have ticked := State.tickDevices_inFrame (u.cycles - s.cycles) frame
  have cycles := (u.tickDevices_cpu (u.cycles - s.cycles)).cycles
  rw [State.clearPulses_cycles, cycles, ← index, ← apu]
  exact ⟨⟨ticked.scanline, ticked.dot⟩, least, State.tickDevices_dotIndex _ frame, u.tickDevices_apuCycles _⟩

/-- Settles O35: the coordinate's share of `step_clocks`. -/
theorem stepAdvancesDevices : Obligations.StepAdvancesDevices := by
  intro s t line dot ht
  obtain ⟨frame, -, index, apu⟩ := step_clocks ⟨line, dot⟩ ht
  exact ⟨index, frame.dot, apu⟩

/-- A reset sets the clocks to 0 and the counter to 7; reading the vector moves neither (70 R801, R805, R806). -/
theorem hardReset_clocks {s t : State} (h : s.hardReset = .next t) : t.clocks = ⟨0, 0, 0⟩ ∧ t.cycles = 7 := by
  unfold State.hardReset at h
  split at h
  · cases h
  · next c hc =>
    cases h
    exact ⟨(busStable_clocks ⟨0, 0, 0⟩).read16 resetVector (s := s.resetChips c) rfl,
      State.read16_cycles (s.resetChips c) resetVector⟩

/-- Settles O60: a reset starts the clocks in phase, and `step_clocks` keeps them so. -/
theorem clockPhase : Obligations.ClockPhase := by
  refine ⟨fun s t ht => ?reset, fun s t phase ht => ?step⟩
  case reset =>
    obtain ⟨clocks, cycles⟩ := hardReset_clocks ht
    obtain ⟨line, dot, apu⟩ := Clocks.mk.inj clocks
    rw [dotIndex, line, dot, apu, cycles]
    decide
  case step =>
    obtain ⟨line, dot, seven, index, apu⟩ := phase
    obtain ⟨frame, least, index', apu'⟩ := step_clocks ⟨line, dot⟩ ht
    refine ⟨frame.scanline, frame.dot, by omega, ?_, by omega⟩
    rw [index', index, Nat.mod_add_mod, ← Nat.mul_add]
    congr 2
    omega

end Sys2Proof.Machine

/-! ## The invariant across a step (O33, O34) -/

namespace Sys2Proof.Machine

theorem busStable_inv : BusStable State.Inv where
  withCpu c h := h.withCpu c
  memRead a h := h.memRead a
  memWrite a v h := h.memWrite a v

theorem State.Inv.tickDevices {s : State} (h : s.Inv) (n : Nat) : (s.tickDevices n).Inv := by
  obtain ⟨u, hu⟩ : ∃ u, State.ppuDots (3 * n) s = u := ⟨_, rfl⟩
  obtain ⟨frame, draws, e⟩ := State.tickDevices_eq n s u hu
  have dots : u.Inv := hu ▸ h.ppuDots (3 * n)
  have ticks := dots.apuTicks n
  have cart : ∀ d, (State.apuTicks n u).cart.map (·.onCpuCycles n) = some d → d.Inv := by
    intro d hd
    obtain ⟨c, hc, rfl⟩ := Option.map_eq_some_iff.mp hd
    exact (ticks.cart c hc).onCpuCycles n
  rw [e]
  exact ⟨ticks.ram_wf, ticks.prgRam_wf, { dots.ppu with }, ticks.apu, cart, ticks.pad0_count, ticks.pad1_count⟩

theorem State.Inv.clearPulses {s : State} (h : s.Inv) : s.clearPulses.Inv := h.withPpu { h.ppu with }

/-- Settles O33: the processor step is made of bus accesses, each of which keeps the invariant, and so do the ticks. -/
theorem stepKeepsInv : Obligations.StepKeepsInv := by
  intro s t hs ht
  obtain ⟨c, u, -, hu, rfl⟩ := step_next ht
  exact ((busStable_inv.cpuStep hu hs).tickDevices _).clearPulses

theorem Ppu.reset_inv (stamp : Nat) (mapper : Option (List Byte)) : (Ppu.reset stamp mapper).Inv where
  oam_wf := Memory.wf_nil _ _
  palette_wf := Memory.wf_nil _ _
  palette_six_bits _ h := (List.not_mem_nil h).elim
  ciram_wf := Memory.wf_nil _ _
  scanline_range := Nat.zero_lt_succ _
  dot_range := Nat.zero_lt_succ _
  snap_count := List.length_replicate
  ageLo_bound := Nat.zero_le _
  ageB5_bound := Nat.zero_le _
  ageHi_bound := Nat.zero_le _

theorem Apu.reset_inv : Apu.reset.Inv where
  noise_alive := by decide
  counter_range := Nat.zero_lt_succ _
  bitsLeft_range := Nat.zero_le _
  length1_range := Nat.zero_le _
  length2_range := Nat.zero_le _
  lengthT_range := Nat.zero_le _
  lengthN_range := Nat.zero_le _
  ring_bound := Nat.zero_le _

theorem State.reset_inv : State.reset.Inv where
  ram_wf := Memory.wf_nil _ _
  prgRam_wf := Memory.wf_nil _ _
  ppu := Ppu.reset_inv 0 none
  apu := Apu.reset_inv
  cart _ h := by cases h
  pad0_count := Nat.zero_le _
  pad1_count := Nat.zero_le _

theorem State.reset_p_toByte : State.reset.p.toByte = 0x24 := by decide

/-- Settles O34: nothing is listed in a reset memory, every counter is 0, and the registers are literals. -/
theorem resetInv : Obligations.ResetInv :=
  ⟨State.reset_inv, rfl, rfl, rfl, rfl, State.reset_p_toByte, rfl, rfl, rfl⟩

end Sys2Proof.Machine

/-! ## Words of the spec (O23) -/

namespace Sys2Proof

/-- Settles O23: each word is a closed evaluation of the decoder. -/
theorem specWordsDecode : Obligations.SpecWordsDecode :=
  ⟨rfl, rfl, rfl, rfl, rfl, rfl, rfl, rfl, rfl, rfl, rfl⟩

end Sys2Proof

/-! ## The cartridge across a step (O38, O41) -/

namespace Sys2Proof.Machine

/-! ### What of a cartridge no step changes -/

/-- The cartridge `d` is `c` but for the mapper's registers and CHR-RAM (63 R700). -/
structure Cartridge.SameRom (c d : Cartridge) : Prop where
  prgSize : d.prgSize = c.prgSize
  prgRom : d.prgRom = c.prgRom
  chrSize : d.chrSize = c.chrSize
  chrIsRam : d.chrIsRam = c.chrIsRam
  chrRom : c.chrIsRam = false → d.chr = c.chr
  mirroring : d.mirroring = c.mirroring
  battery : d.battery = c.battery
  headerVariant : d.headerVariant = c.headerVariant
  mapperId : d.mapperId = c.mapperId

theorem Cartridge.SameRom.refl (c : Cartridge) : c.SameRom c :=
  ⟨rfl, rfl, rfl, rfl, fun _ => rfl, rfl, rfl, rfl, rfl⟩

theorem Cartridge.SameRom.regs {c d : Cartridge} (h : c.SameRom d) (r : MapperRegs) :
    c.SameRom { d with regs := r } := { h with }

theorem Cartridge.SameRom.writeChrRam {c d : Cartridge} (h : c.SameRom d) (ram : d.chrIsRam = true) (m : Memory) :
    c.SameRom { d with chr := m } :=
  { h with chrRom := fun rom => by simp [h.chrIsRam, rom] at ram }

theorem Cartridge.onPpuScanline_regs (c : Cartridge) (line : Nat) :
    ∃ r, c.onPpuScanline line = { c with regs := r } := by
  unfold Cartridge.onPpuScanline
  split <;> exact ⟨_, rfl⟩

theorem Cartridge.onCpuCycles_regs (c : Cartridge) (n : Nat) : ∃ r, c.onCpuCycles n = { c with regs := r } := by
  unfold Cartridge.onCpuCycles
  split <;> exact ⟨_, rfl⟩

/-- The machine holds the cartridge `c`, its mapper's registers and CHR-RAM aside. -/
def State.Holds (c : Cartridge) (s : State) : Prop := ∃ d, s.cart = some d ∧ c.SameRom d

section Holds

variable {c : Cartridge} {s : State}

theorem State.Holds.withRegs (h : s.Holds c) {d e : Cartridge} (hd : s.cart = some d)
    (he : ∃ r, e = { d with regs := r }) : State.Holds c { s with cart := some e } := by
  obtain ⟨d', hd', same⟩ := h
  obtain ⟨r, rfl⟩ := he
  cases hd.symm.trans hd'
  exact ⟨_, rfl, same.regs r⟩

/-- A clock of the mapper changes its registers alone. -/
theorem State.Holds.mapRegs (h : s.Holds c) {f : Cartridge → Cartridge}
    (hf : ∀ d, ∃ r, f d = { d with regs := r }) : State.Holds c { s with cart := s.cart.map f } := by
  obtain ⟨d, hd, same⟩ := h
  obtain ⟨r, e⟩ := hf d
  exact ⟨f d, by simp [hd], e ▸ same.regs r⟩

/-! ### Bus accesses -/

theorem State.ppuRegReadEffect_cart (s : State) (r : BitVec 3) : (s.ppuRegReadEffect r).cart = s.cart := by
  unfold State.ppuRegReadEffect
  split_ifs <;> rfl

theorem State.Holds.hookedRead (h : s.Holds c) (a : Addr) {r : Byte × State} (hr : r.2.Holds c) :
    (s.hookedRead a r).2.Holds c := by
  unfold State.hookedRead
  cases e : s.cart.bind (·.readRegister a) with
  | none => exact hr
  | some q =>
    obtain ⟨d, hd, hq⟩ := Option.bind_eq_some_iff.mp e
    exact h.withRegs hd (Cartridge.readRegister_regs hq)

theorem State.Holds.memRead (h : s.Holds c) (a : Addr) : (s.memRead a).2.Holds c := by
  revert s
  refine State.memRead_cases (P := fun f => ∀ {s : State}, s.Holds c → (f s).2.Holds c) a ?_ ?_ ?_ ?_ ?_ ?_ ?_ ?_
  · exact fun _ _ h => h
  · intro _ _ s h
    rwa [State.Holds, State.ppuRegReadEffect_cart]
  · exact fun h => h
  · exact fun h => h
  · exact fun _ _ h => h
  · exact fun h => h.hookedRead a h
  · exact fun _ _ _ h => h.hookedRead a h
  · intro _ s h
    dsimp only
    unfold State.prgRead
    split <;> exact h

/-- A write of video memory stores to a cartridge's CHR memory only where that is RAM (61 R541). -/
theorem State.Holds.ppuWrite (h : s.Holds c) (a : BitVec 14) (v : Byte) : (s.ppuWrite a v).Holds c := by
  unfold State.ppuWrite
  split
  · split
    · exact h
    · next d hd =>
      split
      · split
        · next ram =>
          obtain ⟨d', hd', same⟩ := h
          cases hd.symm.trans hd'
          exact ⟨_, rfl, same.writeChrRam ram _⟩
        · exact h
      · exact h
  split
  · split <;> exact h
  · exact h

theorem State.Holds.ppuRegWrite (h : s.Holds c) (r : BitVec 3) (v : Byte) : (s.ppuRegWrite r v).Holds c := by
  unfold State.ppuRegWrite
  dsimp only
  split_ifs
  case neg => exact State.Holds.ppuWrite (s := { s with ppu := s.ppu.refreshAll v }) h _ v
  all_goals exact h

theorem State.Holds.hookedWrite (h : s.Holds c) (a : Addr) (v : Byte) {t : State} (ht : t.Holds c) :
    (s.hookedWrite a v t).Holds c := by
  unfold State.hookedWrite
  cases e : s.cart.bind (·.writeRegister a v) with
  | none => exact ht
  | some q =>
    obtain ⟨d, hd, hq⟩ := Option.bind_eq_some_iff.mp e
    exact h.withRegs hd (Cartridge.writeRegister_regs hq)

theorem State.Holds.memWrite (h : s.Holds c) (a : Addr) (v : Byte) : (s.memWrite a v).Holds c := by
  revert s
  refine State.memWrite_cases (P := fun f => ∀ {s : State}, s.Holds c → (f s).Holds c) a v
    ?_ ?_ ?_ ?_ ?_ ?_ ?_ ?_ ?_
  · exact fun _ _ h => h
  · exact fun _ _ _ h => h.ppuRegWrite _ v
  · intro _ s h
    obtain ⟨oam, draws, frame⟩ := s.dmaCopy_frame v 256 0
    dsimp only
    rw [State.oamDma_eq, frame]
    exact h
  · exact fun _ _ h => h
  · exact fun _ _ h => h
  · exact fun _ _ h => h
  · exact fun _ _ h => h.hookedWrite a v h
  · exact fun _ _ _ h => h.hookedWrite a v h
  · exact fun _ _ h => h.mapRegs fun d => d.mapCpuWrite_regs a v

theorem busStable_holds (c : Cartridge) : BusStable (State.Holds c) where
  withCpu _ h := h
  memRead a h := h.memRead a
  memWrite a v h := h.memWrite a v

/-! ### Dots and ticks -/

theorem State.Holds.scanlineClock (h : s.Holds c) : s.scanlineClock.Holds c := by
  unfold State.scanlineClock
  split
  · exact h.mapRegs fun d => d.onPpuScanline_regs _
  · exact h

theorem State.Holds.dotEvents (h : s.Holds c) : s.dotEvents.Holds c := by
  apply State.dotEvents_cases (P := State.Holds c)
  case zero =>
    intro px
    unfold State.spriteZeroTest
    split <;> exact h
  case clock => exact h.scanlineClock
  all_goals exact h

theorem State.Holds.ppuDots (h : s.Holds c) (n : Nat) : (State.ppuDots n s).Holds c := by
  induction n generalizing s with
  | zero => exact h
  | succ n ih => exact ih (s := s.ppuDot) h.dotEvents

theorem State.Holds.tickDevices (h : s.Holds c) (n : Nat) : (s.tickDevices n).Holds c := by
  obtain ⟨u, hu⟩ : ∃ u, State.ppuDots (3 * n) s = u := ⟨_, rfl⟩
  obtain ⟨frame, draws, e⟩ := State.tickDevices_eq n s u hu
  have dots : u.Holds c := hu ▸ h.ppuDots (3 * n)
  rw [e, State.apuTicks_eq]
  exact dots.mapRegs fun d => d.onCpuCycles_regs n

end Holds

/-- Settles O38: the bus, the dots and the ticks change a mapper's registers and CHR-RAM, and nothing else of a
cartridge. -/
theorem stepKeepsCartridge : Obligations.StepKeepsCartridge := by
  intro s t c ht hc
  obtain ⟨-, u, -, hu, rfl⟩ := step_next ht
  obtain ⟨d, hd, same⟩ := ((busStable_holds c).cpuStep hu ⟨c, hc, .refl c⟩).tickDevices (u.cycles - s.cycles)
  exact ⟨d, hd, same.prgSize, same.prgRom, same.chrSize, same.chrIsRam, same.chrRom, same.mirroring, same.battery,
    same.headerVariant, same.mapperId⟩

/-! ### The cartridge windows -/

theorem State.memRead_prgWindow (s : State) {a : Addr} (lo : 0x8000#16 ≤ a) : s.memRead a = s.prgRead a := by
  unfold State.memRead
  rw [if_neg (by bv_omega), if_neg (by bv_omega), if_neg (by bv_omega), if_neg (by bv_omega), if_neg (by bv_omega),
    if_neg (by bv_omega), if_neg (by bv_omega), if_neg (by bv_omega), if_neg (by bv_omega)]

theorem State.memWrite_prgWindow (s : State) {a : Addr} (lo : 0x8000#16 ≤ a) (v : Byte) :
    s.memWrite a v = { s with cart := s.cart.map (·.mapCpuWrite a v) } := by
  unfold State.memWrite
  rw [if_neg (by bv_omega), if_neg (by bv_omega), if_neg (by bv_omega), if_neg (by bv_omega), if_neg (by bv_omega),
    if_neg (by bv_omega), if_neg (by bv_omega), if_neg (by bv_omega)]

theorem Cartridge.isNrom_of_mapperId {c : Cartridge} (h : c.mapperId = 0) : c.isNrom = true := by
  simp [Cartridge.isNrom, h]

/-- Mapper 0 is the interface's functions at their simplest: indices modulo the sizes, and no hook (63 R720). -/
theorem Cartridge.nrom_functions {c : Cartridge} (h : c.mapperId = 0) :
    (∀ a, c.mapCpuRead a = some ((a.toNat - 0x8000) % c.prgSize)) ∧
    (∀ (a : Addr) (v : Byte), c.mapCpuWrite a v = c) ∧
    (∀ a : BitVec 14, c.mapPpuRead a = some (a.toNat % c.chrSize) ∧
        c.mapPpuWrite a = some (a.toNat % c.chrSize)) ∧
    (∀ (a : Addr) (v : Byte), c.readRegister a = none ∧ c.writeRegister a v = none) ∧
    c.irq = false ∧ c.effectiveMirroring = c.mirroring ∧ ∀ a, c.mapPpuNametable a = none := by
  have nrom := c.isNrom_of_mapperId h
  simp [Cartridge.mapCpuRead, Cartridge.mapCpuWrite, Cartridge.mapPpuRead, Cartridge.mapPpuWrite,
    Cartridge.readRegister, Cartridge.writeRegister, Cartridge.irq, Cartridge.effectiveMirroring,
    Cartridge.mapPpuNametable, nrom]

theorem State.memRead_nrom {s : State} {c : Cartridge} {a : Addr} (hc : s.cart = some c) (h : c.mapperId = 0)
    (lo : 0x8000#16 ≤ a) : s.memRead a = (c.prgRom.read ((a.toNat - 0x8000) % c.prgSize), s) := by
  obtain ⟨index, -⟩ := c.nrom_functions h
  simp [s.memRead_prgWindow lo, State.prgRead, hc, index a]

theorem State.memWrite_nrom {s : State} {c : Cartridge} {a : Addr} (hc : s.cart = some c) (h : c.mapperId = 0)
    (lo : 0x8000#16 ≤ a) (v : Byte) : s.memWrite a v = s := by
  obtain ⟨-, write, -⟩ := c.nrom_functions h
  rw [s.memWrite_prgWindow lo, hc, Option.map_some, write, ← hc]

theorem Cartridge.mapCpuRead_lt {c : Cartridge} (h : c.Inv) {a : Addr} {i : Nat} (hi : c.mapCpuRead a = some i) :
    i < c.prgSize := by
  unfold Cartridge.mapCpuRead at hi
  split at hi
  · rw [← Option.some.inj hi]
    exact Nat.mod_lt _ h.prg_nonempty
  · obtain ⟨j, -, rfl⟩ := Option.map_eq_some_iff.mp hi
    exact Nat.mod_lt _ h.prg_nonempty

theorem Cartridge.mapPpuRead_lt {c : Cartridge} (h : c.Inv) {a : BitVec 14} {i : Nat}
    (hi : c.mapPpuRead a = some i) : i < c.chrSize := by
  unfold Cartridge.mapPpuRead at hi
  split at hi
  · cases hi; exact Nat.mod_lt _ h.chr_nonempty
  · obtain ⟨j, -, rfl⟩ := Option.map_eq_some_iff.mp hi
    exact Nat.mod_lt _ h.chr_nonempty

/-- Settles O41: mapper 0's functions, the bus row that uses them, and the modulus each index is taken by. -/
theorem cartridgeWindows : Obligations.CartridgeWindows := by
  refine ⟨fun c h => ?_, fun s c a hc h lo => ⟨State.memRead_nrom hc h lo, State.memWrite_nrom hc h lo⟩,
    fun c k h => ⟨fun a => c.mapCpuRead_lt h, fun a => c.mapPpuRead_lt h, fun a => c.mapPpuWrite_lt h⟩⟩
  obtain ⟨cpuRead, rest⟩ := c.nrom_functions h
  exact ⟨fun a _ => cpuRead a, rest⟩

end Sys2Proof.Machine

/-! ## The video chip's registers (O43, O44, O45) -/

namespace Sys2Proof.Machine

open Sys2Proof.Ref

/-! ### The rows of the register window -/

/-- A mirror of video register `r` is in the register window and selects `r` (20 R77). -/
theorem isVideoRegister_window {a : Addr} {r : Nat} (h : IsVideoRegister a r) :
    ¬ a < 0x2000#16 ∧ a < 0x4000#16 ∧ a.setWidth 3 = BitVec.ofNat 3 r := by
  obtain ⟨lo, hi, mod⟩ := h
  refine ⟨by bv_omega, by bv_omega, BitVec.eq_of_toNat_eq ?_⟩
  rw [BitVec.toNat_setWidth, BitVec.toNat_ofNat]
  omega

theorem State.memRead_video (s : State) {a : Addr} {r : Nat} (h : IsVideoRegister a r) :
    s.memRead a = (s.ppuRegValue (BitVec.ofNat 3 r), s.ppuRegReadEffect (BitVec.ofNat 3 r)) := by
  obtain ⟨lo, hi, reg⟩ := isVideoRegister_window h
  rw [State.memRead, if_neg lo, if_pos hi, reg]

theorem State.memWrite_video (s : State) {a : Addr} {r : Nat} (h : IsVideoRegister a r) (v : Byte) :
    s.memWrite a v = s.ppuRegWrite (BitVec.ofNat 3 r) v := by
  obtain ⟨lo, hi, reg⟩ := isVideoRegister_window h
  rw [State.memWrite, if_neg lo, if_pos hi, reg]

/-! ### Reads of $2002, $2004 and the write-only registers -/

theorem bitByte_toNat (b : Bool) : (bitByte b).toNat = b.toNat := by cases b <;> rfl

/-- A flag at bit `i` above a number of `i` bits is their sum. -/
theorem flag_or_eq_add {n i : Nat} (b : Bool) (h : n < 2 ^ i) : b.toNat * 2 ^ i ||| n = 2 ^ i * b.toNat + n := by
  rw [Nat.mul_comm, Nat.two_pow_add_eq_or_of_lt h]

/-- The status byte as a sum: three flags over the low five bits of open bus (61 R512). -/
theorem Ppu.statusValue_eq (p : Ppu) : p.statusValue = BitVec.ofNat 8 (128 * p.vblank.toNat
    + 64 * p.spriteZeroHit.toNat + 32 * p.spriteOverflow.toNat + p.ob.toNat % 32) := by
  have hv := p.vblank.toNat_lt
  have hz := p.spriteZeroHit.toNat_lt
  have ho := p.spriteOverflow.toNat_lt
  have low : p.ob.toNat % 32 < 2 ^ 5 := Nat.mod_lt _ (by decide)
  have mask : p.ob.toNat &&& (31 : Byte).toNat = p.ob.toNat % 32 := Nat.and_two_pow_sub_one_eq_mod p.ob.toNat 5
  apply BitVec.eq_of_toNat_eq
  have overflow := flag_or_eq_add p.spriteOverflow low
  have zero := flag_or_eq_add (i := 6) (n := 2 ^ 5 * p.spriteOverflow.toNat + p.ob.toNat % 32) p.spriteZeroHit
    (by omega)
  have vblank := flag_or_eq_add (i := 7)
    (n := 2 ^ 6 * p.spriteZeroHit.toNat + (2 ^ 5 * p.spriteOverflow.toNat + p.ob.toNat % 32)) p.vblank (by omega)
  simp only [Ppu.statusValue, BitVec.or_assoc, BitVec.toNat_or, BitVec.toNat_shiftLeft, bitByte_toNat,
    BitVec.toNat_and, Nat.shiftLeft_eq, mask, BitVec.toNat_ofNat]
  rw [Nat.mod_eq_of_lt (by omega), Nat.mod_eq_of_lt (by omega), Nat.mod_eq_of_lt (by omega), overflow, zero, vblank]
  omega

/-- The open-bus byte a $2002 read leaves is the byte it returned (61 R512). -/
theorem Ppu.statusEffect_eq (p : Ppu) :
    p.statusEffect = { p with vblank := false, w := false, ob := p.statusValue, ageB5 := 0, ageHi := 0 } := by
  have low : p.statusValue &&& 0x1F = p.ob &&& 0x1F := by
    have ob := p.ob.toNat
    apply BitVec.eq_of_toNat_eq
    rw [Ppu.statusValue_eq, BitVec.toNat_and, BitVec.toNat_and, BitVec.toNat_ofNat]
    change _ &&& 2 ^ 5 - 1 = _ &&& 2 ^ 5 - 1
    rw [Nat.and_two_pow_sub_one_eq_mod, Nat.and_two_pow_sub_one_eq_mod]
    omega
  have whole : (p.ob &&& 0x1F) ||| (p.statusValue &&& 0xE0) = p.statusValue := by
    rw [← low, ← BitVec.and_or_distrib_left]
    exact BitVec.and_allOnes
  rw [Ppu.statusEffect, whole]

/-- Settles O43: the register window's reads, with the status byte as a sum. -/
theorem statusReads : Obligations.StatusReads := by
  intro s a
  refine ⟨fun h => ?status, fun h => ?oam, fun r hr h => ?writeOnly⟩
  case status =>
    rw [s.memRead_video h, ← Ppu.statusValue_eq]
    exact Prod.ext rfl (congrArg (fun p => { s with ppu := p }) s.ppu.statusEffect_eq)
  case oam =>
    rw [s.memRead_video h]
    rfl
  case writeOnly =>
    rw [s.memRead_video h]
    simp only [List.mem_cons, List.not_mem_nil, or_false] at hr
    rcases hr with rfl | rfl | rfl | rfl | rfl <;> rfl

/-! ### Writes of $2000 to $2006 -/

/-- A bit of a word with a field replaced is the new field's inside the field and the old word's outside. -/
theorem testBit_withField (t : BitVec 15) (lo width v : Nat) {i : Nat} (hi : i < 15) :
    (withField t lo width v).getLsbD i =
      if lo ≤ i ∧ i < lo + width then v.testBit (i - lo) else t.getLsbD i := by
  have below : t.toNat % 2 ^ lo < 2 ^ lo := Nat.mod_lt _ (Nat.two_pow_pos lo)
  have field : v % 2 ^ width < 2 ^ width := Nat.mod_lt _ (Nat.two_pow_pos width)
  have split : t.toNat - t.toNat / 2 ^ lo % 2 ^ width * 2 ^ lo + v % 2 ^ width * 2 ^ lo
      = 2 ^ lo * (2 ^ width * (t.toNat / 2 ^ lo / 2 ^ width) + v % 2 ^ width) + t.toNat % 2 ^ lo := by
    have outer := Nat.div_add_mod t.toNat (2 ^ lo)
    have inner := Nat.div_add_mod (t.toNat / 2 ^ lo) (2 ^ width)
    rw [← inner, Nat.mul_add, Nat.mul_comm (2 ^ lo) (_ % _)] at outer
    rw [Nat.mul_add, Nat.mul_comm (2 ^ lo) (_ % _)]
    omega
  rw [withField, split, BitVec.getLsbD_ofNat, Nat.testBit_two_pow_mul_add _ below, decide_eq_true hi, Bool.true_and]
  by_cases hlo : i < lo
  · rw [if_pos hlo, if_neg (by omega), Nat.testBit_mod_two_pow, decide_eq_true hlo, Bool.true_and]
    rfl
  rw [if_neg hlo, Nat.testBit_two_pow_mul_add _ field]
  by_cases hhi : i - lo < width
  · rw [if_pos hhi, if_pos (by omega), Nat.testBit_mod_two_pow, decide_eq_true hhi, Bool.true_and]
  · rw [if_neg hhi, if_neg (by omega), Nat.testBit_div_two_pow, Nat.testBit_div_two_pow]
    exact congrArg t.toNat.testBit (by omega)

/-- Replacing a field is masking it out and or-ing the new one in. -/
theorem withField_eq_or (t : BitVec 15) (lo : Nat) {width : Nat} {f : Byte} (hf : f.toNat < 2 ^ width) :
    withField t lo width f.toNat =
      (t &&& ~~~BitVec.ofNat 15 ((2 ^ width - 1) * 2 ^ lo)) ||| (f.setWidth 15 <<< lo) := by
  apply BitVec.eq_of_getLsbD_eq
  intro i hi
  have mask : (BitVec.ofNat 15 ((2 ^ width - 1) * 2 ^ lo)).getLsbD i = decide (lo ≤ i ∧ i < lo + width) := by
    rw [BitVec.getLsbD_ofNat, Nat.testBit_mul_two_pow, Nat.testBit_two_pow_sub_one]
    grind
  rw [testBit_withField t lo width _ hi, BitVec.getLsbD_or, BitVec.getLsbD_and, BitVec.getLsbD_not, mask,
    BitVec.getLsbD_shiftLeft, BitVec.getLsbD_setWidth, BitVec.testBit_toNat]
  by_cases hlo : lo ≤ i
  · by_cases hhi : i < lo + width
    · simp [hlo, hhi, hi, Nat.not_lt.mpr hlo]
      omega
    · have high : f.getLsbD (i - lo) = false := by
        rw [← BitVec.testBit_toNat]
        exact Nat.testBit_lt_two_pow (hf.trans_le (Nat.pow_le_pow_right (by decide) (by omega)))
      simp [hhi, hi, high]
  · simp [hlo, hi, Nat.not_le.mp hlo]

/-- Only the field's width of the new bits counts. -/
theorem withField_mod (t : BitVec 15) (lo width v : Nat) :
    withField t lo width (v % 2 ^ width) = withField t lo width v := by
  rw [withField, withField, Nat.mod_mod]

theorem Ppu.writeCtrl_t (p : Ppu) (v : Byte) : (p.writeCtrl v).t = withField p.t 10 2 v.toNat := by
  have low : (v &&& 3).toNat = v.toNat % 2 ^ 2 := Nat.and_two_pow_sub_one_eq_mod v.toNat 2
  rw [← withField_mod, ← low, withField_eq_or p.t 10 (by omega)]
  rfl

theorem Ppu.writeScroll_first {p : Ppu} (w : p.w = false) (v : Byte) :
    p.writeScroll v = { p with t := withField p.t 0 5 (v.toNat / 8), x := BitVec.ofNat 3 v.toNat, w := true } := by
  have high : (v >>> 3).toNat = v.toNat / 8 := by rw [BitVec.toNat_ushiftRight, Nat.shiftRight_eq_div_pow]
  have lt := v.isLt
  rw [← high, withField_eq_or p.t 0 (by omega), BitVec.shiftLeft_zero, Ppu.writeScroll, w]
  rfl

/-- Coarse Y has no bit of fine Y. -/
theorem coarseY_and_fineY (v : Byte) : ((v >>> 3).setWidth 15 <<< 5) &&& ~~~BitVec.ofNat 15 ((2 ^ 3 - 1) * 2 ^ 12)
    = (v >>> 3).setWidth 15 <<< 5 := by
  revert v
  decide

theorem Ppu.writeScroll_second {p : Ppu} (w : p.w = true) (v : Byte) : p.writeScroll v =
    { p with t := withField (withField p.t 5 5 (v.toNat / 8)) 12 3 v.toNat, w := false } := by
  have high : (v >>> 3).toNat = v.toNat / 8 := by rw [BitVec.toNat_ushiftRight, Nat.shiftRight_eq_div_pow]
  have low : (v &&& 7).toNat = v.toNat % 2 ^ 3 := Nat.and_two_pow_sub_one_eq_mod v.toNat 3
  have lt := v.isLt
  rw [← withField_mod _ 12, ← low, ← high, withField_eq_or _ 12 (by omega), withField_eq_or p.t 5 (by omega),
    BitVec.and_or_distrib_right, coarseY_and_fineY, BitVec.and_assoc, BitVec.or_assoc,
    BitVec.or_comm ((v >>> 3).setWidth 15 <<< 5), ← BitVec.or_assoc, Ppu.writeScroll, w]
  rfl

theorem Ppu.writeAddr_first {p : Ppu} (w : p.w = false) (v : Byte) :
    p.writeAddr v = { p with t := withField p.t 8 7 (v.toNat % 64), w := true } := by
  have low : (v &&& 0x3F).toNat = v.toNat % 64 := Nat.and_two_pow_sub_one_eq_mod v.toNat 6
  rw [← low, withField_eq_or p.t 8 (by omega), Ppu.writeAddr, w]
  rfl

theorem Ppu.writeAddr_second {p : Ppu} (w : p.w = true) (v : Byte) : p.writeAddr v =
    { p with t := withField p.t 0 8 v.toNat, v := withField p.t 0 8 v.toNat, w := false } := by
  rw [withField_eq_or p.t 0 v.isLt, BitVec.shiftLeft_zero, Ppu.writeAddr, w]
  rfl

/-- Settles O44: the register's own write over the refreshed open bus. -/
theorem videoRegisterWrites : Obligations.VideoRegisterWrites := by
  intro s a v p
  refine ⟨fun h => ?ctrl, fun h => ?mask, fun h => ?status, fun h => ?oamAddr, fun h => ?oam, fun h w => ?scrollX,
    fun h w => ?scrollY, fun h w => ?addrHigh, fun h w => ?addrLow⟩ <;> rw [s.memWrite_video h]
  case ctrl =>
    rw [← Ppu.writeCtrl_t p v]
    exact congrArg (fun b => { s with ppu := p.writeCtrl v, nmiPending := b }) (Bool.or_false s.nmiPending)
  case scrollX =>
    exact congrArg (fun q => { s with ppu := q }) (Ppu.writeScroll_first (p := p) w v)
  case scrollY =>
    exact congrArg (fun q => { s with ppu := q }) (Ppu.writeScroll_second (p := p) w v)
  case addrHigh =>
    exact congrArg (fun q => { s with ppu := q }) (Ppu.writeAddr_first (p := p) w v)
  case addrLow =>
    exact congrArg (fun q => { s with ppu := q }) (Ppu.writeAddr_second (p := p) w v)
  all_goals rfl

/-! ### $2007 -/

theorem Ppu.nextV_eq (p : Ppu) : p.nextV = nextAddr p := by
  apply BitVec.eq_of_toNat_eq
  rw [Ppu.nextV, nextAddr, BitVec.toNat_add, BitVec.toNat_ofNat]
  split <;> rfl

/-- A $2007 read below $3F00 gives the buffer and loads it. -/
theorem State.memRead_dataPort_low {s : State} {a : Addr} (h : IsVideoRegister a 7) (low : s.ppu.dataAddr < 0x3F00#14) :
    ∃ draws, s.memRead a = (s.ppu.readBuffer, { s with
      draws := draws
      ppu := { refreshed s.ppu s.ppu.readBuffer with
        readBuffer := s.ppuRead 0 s.ppu.dataAddr, v := nextAddr s.ppu } }) := by
  have value : s.dataValue = s.ppu.readBuffer := if_pos low
  refine ⟨s.dataEffect.draws, ?_⟩
  rw [s.memRead_video h, ← Ppu.nextV_eq]
  refine Prod.ext value ?_
  change s.dataEffect = _
  simp only [State.dataEffect, if_pos low, value]
  rfl

/-- A $2007 read from $3F00 on gives the palette entry and loads the buffer from the nametable under it. -/
theorem State.memRead_dataPort_high {s : State} {a : Addr} (h : IsVideoRegister a 7)
    (high : ¬ s.ppu.dataAddr < 0x3F00#14) :
    let result := (s.ppuRead 0 s.ppu.dataAddr &&& 0x3F) ||| (s.ppu.ob &&& 0xC0)
    s.memRead a = (result, { s with
      ppu := { s.ppu with
        readBuffer := s.ppuRead 0 (s.ppu.dataAddr - 0x1000#14)
        ob := result, ageLo := 0, ageB5 := 0, v := nextAddr s.ppu } }) := by
  intro result
  have value : s.dataValue = result := if_neg high
  have openBus : (s.ppu.ob &&& 0xC0) ||| (result &&& 0x3F) = result := by
    have groups : (0xC0 : Byte) &&& 0x3F = 0#8 := by decide
    rw [BitVec.and_or_distrib_right, BitVec.and_assoc, BitVec.and_assoc, groups, BitVec.and_zero, BitVec.or_zero,
      BitVec.and_self, BitVec.or_comm]
  have noChr : ¬ s.ppu.dataAddr < 0x2000#14 := by bv_omega
  rw [s.memRead_video h, ← Ppu.nextV_eq]
  refine Prod.ext value ?_
  change s.dataEffect = _
  simp only [State.dataEffect, if_neg high, if_neg noChr, value, openBus]
  rfl

/-- A write of video memory writes neither `v` nor PPUCTRL. -/
theorem State.ppuWrite_nextV (s : State) (a : BitVec 14) (v : Byte) : (s.ppuWrite a v).ppu.nextV = s.ppu.nextV := by
  unfold State.ppuWrite
  repeat' split
  all_goals rfl

/-- A $2007 write is the write of video memory and the increment. -/
theorem State.memWrite_dataPort (s : State) {a : Addr} (h : IsVideoRegister a 7) (v : Byte) :
    let t := ({ s with ppu := refreshed s.ppu v }).ppuWrite s.ppu.dataAddr v
    s.memWrite a v = { t with ppu := { t.ppu with v := nextAddr s.ppu } } := by
  intro t
  have next : t.ppu.nextV = nextAddr s.ppu := (State.ppuWrite_nextV _ _ _).trans s.ppu.nextV_eq
  rw [s.memWrite_video h, ← next]
  rfl

theorem State.ppuWrite_chrRom {s : State} {c : Cartridge} (hc : s.cart = some c) {a : BitVec 14}
    (h : c.mapPpuWrite a = none ∨ c.chrIsRam = false) (chr : a < 0x2000#14) (v : Byte) : s.ppuWrite a v = s := by
  rw [State.ppuWrite, if_pos chr, hc]
  dsimp only
  rcases h with h | h
  · rw [h]
  · split
    · exact if_neg (ne_true_of_eq_false h)
    · rfl

/-- Settles O45: the register window's $2007 rows, with addresses as natural numbers. -/
theorem dataPort : Obligations.DataPort := by
  intro s a h d
  have addr : s.ppu.dataAddr = d := rfl
  refine ⟨fun low => ?_, fun high => ?_, s.memWrite_dataPort h, fun v c hc rom chr => ?_⟩
  · exact State.memRead_dataPort_low h low
  · have under : s.ppu.dataAddr - 0x1000#14 = BitVec.ofNat 14 (d.toNat - 0x1000) := by
      rw [addr]
      bv_omega
    rw [← under]
    exact State.memRead_dataPort_high h (not_lt.mpr high)
  · exact (s.memWrite_dataPort h v).trans (congrArg
      (fun t : State => { t with ppu := { t.ppu with v := nextAddr s.ppu } })
      (State.ppuWrite_chrRom (s := { s with ppu := refreshed s.ppu v }) hc (.inr rom) chr v))

/-! ## The video address space (O46, O47) -/

theorem paletteIndex_eq (a : BitVec 14) : paletteIndex a = paletteSlot a.toNat := by
  unfold paletteIndex paletteSlot
  dsimp only
  split <;> split <;> omega

/-- The table of 61 R542 lists the page of each nametable. -/
theorem mirrorPage_eq (m : Mirroring) {n : Nat} (h : n < 4) : mirrorPage m n = (nametablePages m).getD n 0 := by
  cases m <;> interval_cases n <;> rfl

theorem and_sixBits (v : Byte) : v &&& 0x3F = BitVec.ofNat 8 (v.toNat % 64) := by
  apply BitVec.eq_of_toNat_eq
  rw [BitVec.toNat_and, BitVec.toNat_ofNat]
  exact (Nat.and_two_pow_sub_one_eq_mod v.toNat 6).trans (by omega)

theorem State.ppuRead_palette (s : State) (site : Nat) {a : BitVec 14} (h : 0x3F00 ≤ a.toNat) :
    (s.ppuRead site a).toNat = (s.ppu.palette.read (paletteSlot a.toNat)).toNat % 64 := by
  rw [State.ppuRead, if_neg (by bv_omega), if_neg (by bv_omega), paletteIndex_eq, Ppu.paletteEntry,
    BitVec.toNat_setWidth, BitVec.toNat_setWidth]
  omega

theorem State.ppuWrite_palette (s : State) {a : BitVec 14} (h : 0x3F00 ≤ a.toNat) (v : Byte) :
    s.ppuWrite a v = { s with ppu := { s.ppu with
      palette := s.ppu.palette.write (paletteSlot a.toNat) (BitVec.ofNat 8 (v.toNat % 64)) } } := by
  rw [State.ppuWrite, if_neg (by bv_omega), if_neg (by bv_omega), paletteIndex_eq, and_sixBits]

/-- Settles O46: the three ranges of the video address space. -/
theorem videoSpace : Obligations.VideoSpace := by
  intro s c a site v hc
  refine ⟨fun chr => ⟨fun i hi => ?_, fun i hi ram => ?_, fun h => State.ppuWrite_chrRom hc h chr v⟩,
    fun lo hi => ?_, fun h => ⟨s.ppuRead_palette site h, s.ppuWrite_palette h v⟩⟩
  · rw [State.ppuRead, if_pos (by bv_omega), hc, Option.bind_some, hi]
  · rw [State.ppuWrite, if_pos (by bv_omega), hc]
    simp only [hi, ram, if_true]
  · intro i
    have index : c.ciramIndex a = i := by
      have page := mirrorPage_eq c.effectiveMirroring (Nat.mod_lt ((a.toNat - 0x2000) / 0x400) (by decide : 4 > 0))
      cases e : c.mapPpuNametable a <;> simp only [i, e, Cartridge.ciramIndex, page]
    rw [← index, State.ppuRead, State.ppuWrite, if_neg (by bv_omega), if_pos (by bv_omega), if_neg (by bv_omega),
      if_pos (by bv_omega), hc]
    exact ⟨rfl, rfl⟩

/-- Settles O47: the palette's read after write, at the entries two addresses select. -/
theorem paletteMirrors : Obligations.PaletteMirrors := by
  intro s a b site v wf ha hb
  rw [State.ppuRead_palette _ site hb, State.ppuRead_palette _ site hb, s.ppuWrite_palette ha,
    Memory.read_write wf, apply_ite BitVec.toNat, apply_ite (· % 64), BitVec.toNat_ofNat]
  congr 1
  omega

end Sys2Proof.Machine

/-! ## The events of a dot (O48, O49) -/

namespace Sys2Proof.Machine

open Sys2Proof.Ref

/-! ### The tests of a dot in the statements' terms -/

/-- The sprite-0 condition is the registers' part, the sprite's box and the background (61 R534). -/
theorem spriteZeroMeets_eq (s : State) (px : Nat) (h : s.ppu.spriteZeroHit = false) :
    spriteZeroMeets s px = (s.ppu.spriteZeroEligible px
      && ((s.ppu.sprite 0).covers (spriteHeight s.ppu.ctrl) px s.ppu.scanline && s.bgOpaque px s.ppu.scanline)) := by
  rw [Bool.eq_iff_iff]
  simp [spriteZeroMeets, Ppu.spriteZeroEligible, Sprite.covers, Ppu.sprite, spriteHeight, h]
  grind

/-- The sprite-0 test writes its flag and may take a draw; under `Sprite0NeedsSpritePixel = false` the flag is the
condition of 61 R534 or what it was (log 5). -/
theorem State.spriteZeroTest_eq (s : State) (px : Nat) : ∃ draws, s.spriteZeroTest px =
    { s with ppu := { s.ppu with spriteZeroHit := s.ppu.spriteZeroHit || spriteZeroMeets s px }, draws := draws } := by
  unfold State.spriteZeroTest
  cases hit : s.ppu.spriteZeroHit with
  | true =>
    have e : s.ppu.spriteZeroEligible px = false := by simp [Ppu.spriteZeroEligible, hit]
    exact ⟨s.draws, by rw [if_neg (ne_true_of_eq_false e), Bool.true_or, ← hit]⟩
  | false =>
    rw [spriteZeroMeets_eq s px hit, Bool.false_or]
    cases s.ppu.spriteZeroEligible px with
    | true => exact ⟨s.draws + 1, by simp [Config.spriteZeroNeedsSpritePixel]⟩
    | false => exact ⟨s.draws, by rw [if_neg Bool.false_ne_true, Bool.false_and, ← hit]⟩

/-- The sprites on the next line, in the statements' terms (61 R533). -/
theorem Ppu.spritesOnNextLine_eq (p : Ppu) (line : Nat) :
    p.spritesOnNextLine line = (List.range 64).countP fun i => spriteRows p i line := by
  have row (i : Nat) : p.onNextLine line i = spriteRows p i line := by
    rw [Bool.eq_iff_iff]
    simp only [Ppu.onNextLine, spriteRows, Bool.and_eq_true, decide_eq_true_eq]
    unfold spriteHeight
    split <;> omega
  rw [Ppu.spritesOnNextLine, ← List.countP_eq_length_filter]
  exact List.countP_congr fun i _ => by rw [row]

/-! ### The events at each coordinate -/

/-- The events of a coordinate (61 R539): each has its own coordinates, and the rest have none. -/
inductive DotEvent (s : State) : State → Prop
  | snapshot (line : s.ppu.scanline < 240) (dot : s.ppu.dot = 0) : DotEvent s s.takeSnapshot
  | pixel (line : s.ppu.scanline < 240) (first : 1 ≤ s.ppu.dot) (last : s.ppu.dot ≤ 256) (draws : Nat) :
    DotEvent s { s with
      ppu := { s.ppu with spriteZeroHit := s.ppu.spriteZeroHit || spriteZeroMeets s (s.ppu.dot - 1) }
      draws := draws }
  | overflow (line : s.ppu.scanline < 240) (dot : s.ppu.dot = 257) : DotEvent s { s with
      ppu := { s.ppu with spriteOverflow := s.ppu.spriteOverflow || ((s.ppu.mask.getLsbD 3 || s.ppu.mask.getLsbD 4)
        && decide (9 ≤ (List.range 64).countP fun i => spriteRows s.ppu i s.ppu.scanline)) } }
  | clock (line : s.ppu.scanline < 240 ∨ s.ppu.scanline = 261) (dot : s.ppu.dot = 260) : DotEvent s { s with
      cart := if s.ppu.mask.getLsbD 3 = true ∨ s.ppu.mask.getLsbD 4 = true then
        s.cart.map (·.onPpuScanline s.ppu.scanline) else s.cart }
  | vblank (line : s.ppu.scanline = 241) (dot : s.ppu.dot = 1) : DotEvent s s.enterVblank
  | clear (line : s.ppu.scanline = 261) (dot : s.ppu.dot = 1) : DotEvent s { s with ppu := s.ppu.preRenderClear }
  | none (visible : s.ppu.scanline < 240 → 258 ≤ s.ppu.dot ∧ s.ppu.dot ≠ 260)
    (vblank : s.ppu.scanline = 241 → s.ppu.dot ≠ 1)
    (preRender : s.ppu.scanline = 261 → s.ppu.dot ≠ 1 ∧ s.ppu.dot ≠ 260) : DotEvent s s

theorem DotEvent.of_pixel {s : State} (line : s.ppu.scanline < 240) (first : 1 ≤ s.ppu.dot)
    (last : s.ppu.dot ≤ 256) :
    DotEvent s (s.spriteZeroTest (s.ppu.dot - 1)) := by
  obtain ⟨draws, e⟩ := s.spriteZeroTest_eq (s.ppu.dot - 1)
  rw [e]
  exact .pixel line first last draws

theorem DotEvent.of_overflow {s : State} (line : s.ppu.scanline < 240) (dot : s.ppu.dot = 257) :
    DotEvent s { s with ppu := s.ppu.overflowTest } := by
  rw [Ppu.overflowTest, Ppu.spritesOnNextLine_eq]
  exact .overflow line dot

theorem DotEvent.of_clock {s : State} (line : s.ppu.scanline < 240 ∨ s.ppu.scanline = 261) (dot : s.ppu.dot = 260) :
    DotEvent s s.scanlineClock := by
  have h := DotEvent.clock line dot
  unfold State.scanlineClock Ppu.renderingEnabled
  split
  · next on => rwa [if_pos (Bool.or_eq_true_iff.mp on)] at h
  · next off => rwa [if_neg (fun on => off (Bool.or_eq_true_iff.mpr on))] at h

theorem State.dotEvents_event (s : State) : DotEvent s s.dotEvents := by
  unfold State.dotEvents
  dsimp only
  split
  · next line =>
    split
    · next dot => exact .snapshot line dot
    split
    · exact .of_pixel line (by omega) (by omega)
    split
    · next dot => exact .of_overflow line dot
    split
    · next dot => exact .of_clock (.inl line) dot
    · exact .none (by omega) (by omega) (by omega)
  split
  · next line =>
    split
    · next dot => exact .vblank line dot
    · exact .none (by omega) (by omega) (by omega)
  split
  · next line =>
    split
    · next dot => exact .clear line dot
    split
    · next dot => exact .of_clock (.inr line) dot
    · exact .none (by omega) (by omega) (by omega)
  · exact .none (by omega) (by omega) (by omega)

theorem Ppu.InFrame.advance_pulseFrameStart {p : Ppu} (h : p.InFrame) :
    p.advance.pulseFrameStart = (p.pulseFrameStart || decide (p.scanline = 261 ∧ p.dot = 340)) := by
  obtain ⟨hs, hd⟩ := h
  unfold Ppu.advance
  split
  · split
    · simp; omega
    · simp; omega
  · simp; omega

/-- What the events of a dot make of the flags, the NMI request and the vblank pulse (61 R531–R534, 60 R404). -/
theorem DotEvent.flags {s u : State} (h : DotEvent s u) :
    let at_ := fun line dot => decide (s.ppu.scanline = line ∧ s.ppu.dot = dot)
    u.ppu.vblank = ((s.ppu.vblank || at_ 241 1) && !at_ 261 1) ∧
    u.ppu.spriteZeroHit = ((s.ppu.spriteZeroHit || (decide (s.ppu.scanline < 240 ∧ 1 ≤ s.ppu.dot
        ∧ s.ppu.dot ≤ 256) && spriteZeroMeets s (s.ppu.dot - 1))) && !at_ 261 1) ∧
    u.ppu.spriteOverflow = ((s.ppu.spriteOverflow || (decide (s.ppu.scanline < 240 ∧ s.ppu.dot = 257)
        && (s.ppu.mask.getLsbD 3 || s.ppu.mask.getLsbD 4)
        && decide (9 ≤ (List.range 64).countP fun i => spriteRows s.ppu i s.ppu.scanline)))
      && !at_ 261 1) ∧
    u.nmiPending = (s.nmiPending || (at_ 241 1 && s.ppu.ctrl.getLsbD 7)) ∧
    u.ppu.pulseVblankStart = (s.ppu.pulseVblankStart || at_ 241 1) ∧
    u.ppu.pulseFrameStart = s.ppu.pulseFrameStart := by
  dsimp only
  cases h with
  | snapshot line dot => simp [State.takeSnapshot, dot]
  | pixel line first last =>
    have vblank : s.ppu.scanline ≠ 241 := by omega
    have preRender : s.ppu.scanline ≠ 261 := by omega
    have overflow : s.ppu.dot ≠ 257 := by omega
    simp [line, first, last, vblank, preRender, overflow]
  | overflow line dot => simp [line, dot]
  | clock line dot => simp [dot]
  | vblank line dot => simp [State.enterVblank, Ppu.nmiEnabled, line, dot]
  | clear line dot => simp [Ppu.preRenderClear, line, dot]
  | none visible vblank preRender =>
    have vblank := decide_eq_false (p := s.ppu.scanline = 241 ∧ s.ppu.dot = 1) (by omega)
    have preRender := decide_eq_false (p := s.ppu.scanline = 261 ∧ s.ppu.dot = 1) (by omega)
    have pixel := decide_eq_false (p := s.ppu.scanline < 240 ∧ 1 ≤ s.ppu.dot ∧ s.ppu.dot ≤ 256) (by omega)
    have overflow := decide_eq_false (p := s.ppu.scanline < 240 ∧ s.ppu.dot = 257) (by omega)
    simp only [vblank, preRender, pixel, overflow, Bool.false_and, Bool.or_false, Bool.not_false, Bool.and_true,
      and_self]

/-- Settles O48: the events decide the flags; the advance adds the frame-start pulse at the frame's last dot. -/
theorem dotFlags : Obligations.DotFlags := by
  intro s line dot t at_
  obtain ⟨vblank, zero, overflow, nmi, vblankPulse, framePulse⟩ := s.dotEvents_event.flags
  have inFrame := State.dotEvents_inFrame (s := s) ⟨line, dot⟩
  obtain ⟨line', dot'⟩ := s.dotEvents_coordinate
  have e : t.ppu = s.dotEvents.ppu.openBusAge.advance := rfl
  rw [e, inFrame.openBusAge.advance_pulseFrameStart, Ppu.advance_eq,
    show t.nmiPending = s.dotEvents.nmiPending from rfl]
  refine ⟨vblank, zero, overflow, nmi, vblankPulse, ?_⟩
  change (s.dotEvents.ppu.pulseFrameStart || decide (s.dotEvents.ppu.scanline = 261 ∧ s.dotEvents.ppu.dot = 340)) = _
  rw [framePulse, line', dot']

/-- What else the events of a dot change, and what they leave (61 R537, R555). -/
theorem DotEvent.effects {s u : State} (h : DotEvent s u) :
    u.ppu.snap = (if s.ppu.scanline < 240 ∧ s.ppu.dot = 0 then
      s.ppu.snap.set s.ppu.scanline
        ⟨s.ppu.ctrl, s.ppu.mask, s.ppu.t, s.ppu.x, s.cart.bind (·.saveRenderState)⟩
      else s.ppu.snap) ∧
    u.cart = (if s.ppu.dot = 260 ∧ (s.ppu.scanline < 240 ∨ s.ppu.scanline = 261)
        ∧ (s.ppu.mask.getLsbD 3 = true ∨ s.ppu.mask.getLsbD 4 = true) then
      s.cart.map (·.onPpuScanline s.ppu.scanline)
      else s.cart) ∧
    ∃ nmi cart draws vblank zero overflow snap pulse, u = { s with
      nmiPending := nmi
      cart := cart
      draws := draws
      ppu := { s.ppu with
        vblank := vblank
        spriteZeroHit := zero
        spriteOverflow := overflow
        snap := snap
        pulseVblankStart := pulse } } := by
  cases h with
  | snapshot line dot =>
    exact ⟨(if_pos ⟨line, dot⟩).symm, (if_neg (by omega)).symm, _, _, _, _, _, _, _, _, rfl⟩
  | clock line dot => exact ⟨(if_neg (by omega)).symm, by simp only [dot, line, true_and],
      _, _, _, _, _, _, _, _, rfl⟩
  | pixel _ _ _ _ | overflow _ _ | vblank _ _ | clear _ _ | none _ _ _ =>
    exact ⟨(if_neg (by omega)).symm, (if_neg (by omega)).symm, _, _, _, _, _, _, _, _, rfl⟩

/-- Settles O49: the events' effects, open bus and the coordinate's advance, part by part. -/
theorem dotEffects : Obligations.DotEffects := by
  intro s line dot t
  have inFrame : s.ppu.InFrame := ⟨line, dot⟩
  obtain ⟨snap, cart, frame⟩ := s.dotEvents_event.effects
  refine ⟨State.ppuDot_dotIndex inFrame, (State.ppuDot_inFrame inFrame).dot, ?_, cart, ?_⟩
  · exact (congrArg Ppu.snap (Ppu.advance_eq _)).trans snap
  · obtain ⟨nmi, cart, draws, vblank, zero, overflow, snap, pulse, events⟩ := frame
    have dot : t = { s.dotEvents with ppu := s.dotEvents.ppu.openBusAge.advance } := rfl
    rw [dot, Ppu.advance_eq, events]
    rfl

/-! ## Open bus over any number of dots (O50) -/

/-- Whether a group of bits is still as it was after `n` dots (61 R538). -/
def openBusKept (n age : Nat) : Bool := decide (age + n < Config.openBusDecayDots ∨ Config.openBusDecayDots ≤ age)

/-- A group's age after `n` dots (61 R538). -/
def openBusAged (n age : Nat) : Nat :=
  if Config.openBusDecayDots ≤ age then age else min (age + n) Config.openBusDecayDots

/-- A group's age after one dot. -/
theorem ageGroup_age (age : Nat) (bits : Byte) : (ageGroup age bits).1 = openBusAged 1 age := by
  rw [ageGroup_eq, openBusAged]
  split <;> omega

/-- A group's bits after one dot. -/
theorem ageGroup_getLsbD (age : Nat) (bits : Byte) (k : Nat) :
    (ageGroup age bits).2.getLsbD k = (bits.getLsbD k && openBusKept 1 age) := by
  rw [ageGroup_eq, openBusKept]
  dsimp only
  split
  · next h =>
    rw [decide_eq_false (by omega), Bool.and_false]
    exact BitVec.getLsbD_zero
  · rw [decide_eq_true (by omega), Bool.and_true]

theorem openBusAged_succ (n age : Nat) : openBusAged n (openBusAged 1 age) = openBusAged (n + 1) age := by
  unfold openBusAged
  grind

theorem openBusKept_succ (n age : Nat) :
    (openBusKept 1 age && openBusKept n (openBusAged 1 age)) = openBusKept (n + 1) age := by
  unfold openBusAged openBusKept
  grind

/-- The three groups of the open-bus byte and their ages after `n` dots. -/
structure OpenBusAfter (n : Nat) (p q : Ppu) : Prop where
  lo : ∀ k, k < 5 → q.ob.getLsbD k = (p.ob.getLsbD k && openBusKept n p.ageLo)
  b5 : q.ob.getLsbD 5 = (p.ob.getLsbD 5 && openBusKept n p.ageB5)
  hi : ∀ k, 6 ≤ k → q.ob.getLsbD k = (p.ob.getLsbD k && openBusKept n p.ageHi)
  ageLo : q.ageLo = openBusAged n p.ageLo
  ageB5 : q.ageB5 = openBusAged n p.ageB5
  ageHi : q.ageHi = openBusAged n p.ageHi

/-- Each bit of the byte ages with its group: bits 4–0, bit 5, bits 7–6 (61 R521). -/
theorem Ppu.openBusAge_getLsbD (p : Ppu) {k : Nat} (hk : k < 8) : p.openBusAge.ob.getLsbD k = (p.ob.getLsbD k
    && openBusKept 1 (if k < 5 then p.ageLo else if k = 5 then p.ageB5 else p.ageHi)) := by
  have groups : ((0x1F : Byte).getLsbD k, (0x20 : Byte).getLsbD k, (0xC0 : Byte).getLsbD k)
      = (decide (k < 5), decide (k = 5), decide (6 ≤ k)) := by
    revert hk
    revert k
    decide
  obtain ⟨lo, b5, hi⟩ := Prod.mk.inj groups |>.imp_right Prod.mk.inj
  simp only [Ppu.openBusAge, BitVec.getLsbD_or, ageGroup_getLsbD, BitVec.getLsbD_and, lo, b5, hi]
  grind

theorem Ppu.openBusAge_after (p : Ppu) : OpenBusAfter 1 p p.openBusAge where
  lo k hk := by rw [p.openBusAge_getLsbD (by omega), if_pos hk]
  b5 := p.openBusAge_getLsbD (by decide)
  hi k hk := by
    by_cases h : k < 8
    · rw [p.openBusAge_getLsbD h, if_neg (by omega), if_neg (by omega)]
    · rw [BitVec.getLsbD_of_ge _ _ (by omega), BitVec.getLsbD_of_ge _ _ (by omega), Bool.false_and]
  ageLo := ageGroup_age _ _
  ageB5 := ageGroup_age _ _
  ageHi := ageGroup_age _ _

theorem OpenBusAfter.trans {n : Nat} {p q r : Ppu} (h : OpenBusAfter 1 p q) (k : OpenBusAfter n q r) :
    OpenBusAfter (n + 1) p r where
  lo i hi := by rw [k.lo i hi, h.lo i hi, h.ageLo, Bool.and_assoc, openBusKept_succ]
  b5 := by rw [k.b5, h.b5, h.ageB5, Bool.and_assoc, openBusKept_succ]
  hi i hi := by rw [k.hi i hi, h.hi i hi, h.ageHi, Bool.and_assoc, openBusKept_succ]
  ageLo := by rw [k.ageLo, h.ageLo, openBusAged_succ]
  ageB5 := by rw [k.ageB5, h.ageB5, openBusAged_succ]
  ageHi := by rw [k.ageHi, h.ageHi, openBusAged_succ]

theorem OpenBusAfter.refl (p : Ppu) : OpenBusAfter 0 p p := by
  have kept (age : Nat) : openBusKept 0 age = true := decide_eq_true (by omega)
  have aged (age : Nat) : openBusAged 0 age = age := by
    unfold openBusAged
    split <;> omega
  constructor <;> simp only [kept, aged, Bool.and_true, implies_true]

/-- The dot's events leave open bus, and so does the advance. -/
theorem State.ppuDot_openBus (s : State) : OpenBusAfter 1 s.ppu s.ppuDot.ppu := by
  obtain ⟨ob, lo, b5, hi⟩ := s.dotEvents_openBus
  obtain ⟨h1, h2, h3, h4, h5, h6⟩ := s.dotEvents.ppu.openBusAge_after
  have e : s.ppuDot.ppu = s.dotEvents.ppu.openBusAge.advance := rfl
  simp only [ob, lo, b5, hi] at h1 h2 h3 h4 h5 h6
  rw [e, Ppu.advance_eq]
  exact ⟨h1, h2, h3, h4, h5, h6⟩

theorem State.ppuDots_openBus (n : Nat) (s : State) : OpenBusAfter n s.ppu (State.ppuDots n s).ppu := by
  induction n generalizing s with
  | zero => exact .refl _
  | succ n ih => exact s.ppuDot_openBus.trans (ih s.ppuDot)

/-- Settles O50: by induction on the dots, each of which ages the three groups apart. -/
theorem openBusDecay : Obligations.OpenBusDecay := by
  intro n s
  obtain ⟨lo, b5, hi, ageLo, ageB5, ageHi⟩ := s.ppuDots_openBus n
  exact ⟨lo, b5, hi, ageLo, ageB5, ageHi⟩

/-! ## A rendered frame (O51) -/

/-- With sprites off no sprite is drawn (61 R557). -/
theorem State.drawSprites_off {st : State} {snap : Snapshot} (off : snap.mask.getLsbD 4 = false)
    (site px line : Nat) (bg : Bool) (n under : Nat) : st.drawSprites snap site px line bg n under = under := by
  have one (i : Nat) : st.drawSprite snap i site px line bg under = under := by
    unfold State.drawSprite
    dsimp only
    split
    · rfl
    · rw [off]
      rfl
  induction n with
  | zero => rfl
  | succ n ih => rw [State.drawSprites, one, ih]

/-- With background and sprites off every pixel is the backdrop (61 R556, R557). -/
theorem State.linePixel_off {st : State} {snap : Snapshot} (bg : snap.mask.getLsbD 3 = false)
    (sprites : snap.mask.getLsbD 4 = false) (px line : Nat) : st.linePixel snap px line = 0 := by
  have backdrop : st.bgPixel snap ((line * 256 + px) * 65) px line = 0 := by
    rw [State.bgPixel, bg]
    rfl
  rw [State.linePixel, State.drawSprites_off sprites, backdrop]

/-- A line with a snapshot is 256 pixels of palette colours (61 R550, R558). -/
theorem State.renderLine_eq {st : State} {line : Nat} (h : line < st.ppu.snap.length) : st.renderLine line =
    (List.range 256).map fun px => (st.withRenderState st.ppu.snap[line]).pixelColour
      ((st.withRenderState st.ppu.snap[line]).linePixel st.ppu.snap[line] px line) := by
  rw [State.renderLine, List.getElem?_eq_getElem h]

/-- The render state is the mapper's; palette RAM is the machine's. -/
theorem State.pixelColour_backdrop (st : State) (snap : Snapshot) :
    let q := (st.withRenderState snap).pixelColour 0
    (q.r, q.g, q.b) = Config.paletteRGB (BitVec.ofNat 6 (st.ppu.palette.read 0).toNat) := rfl

/-- Settles O51: each of the 240 lines has a snapshot, and with rendering off each pixel is the backdrop. -/
theorem frameOutput : Obligations.FrameOutput := by
  intro s count t
  refine ⟨rfl, (List.range 240).map s.renderLine, rfl, by rw [List.length_map, List.length_range], ?_, ?_⟩
  · intro row hrow
    obtain ⟨line, hline, rfl⟩ := List.mem_map.mp hrow
    rw [State.renderLine_eq (count ▸ List.mem_range.mp hline)]
    refine ⟨by rw [List.length_map, List.length_range], fun q hq => ?_⟩
    obtain ⟨px, -, rfl⟩ := List.mem_map.mp hq
    rfl
  · intro off row hrow q hq
    obtain ⟨line, hline, rfl⟩ := List.mem_map.mp hrow
    have inside : line < s.ppu.snap.length := count ▸ List.mem_range.mp hline
    rw [State.renderLine_eq inside] at hq
    obtain ⟨px, -, rfl⟩ := List.mem_map.mp hq
    obtain ⟨bg, sprites⟩ := off _ (List.getElem_mem inside)
    rw [State.linePixel_off bg sprites]
    exact s.pixelColour_backdrop _

end Sys2Proof.Machine

/-! ## Audio registers (O52) -/

namespace Sys2Proof.Machine

open Sys2Proof.Ref

/-! ### The status read -/

theorem getLsbD_flagBit (k : Nat) (b : Bool) {i : Nat} (hi : i < 8) :
    (flagBit k b).getLsbD i = (b && decide (i = k)) := by
  cases b
  · exact BitVec.getLsbD_zero
  · rw [flagBit, if_pos rfl, BitVec.natCast_eq_ofNat, BitVec.getLsbD_ofNat, Nat.one_shiftLeft, Nat.testBit_two_pow,
      decide_eq_true hi, Bool.true_and, Bool.true_and, decide_eq_decide]
    exact eq_comm

theorem bne_zero_eq_decide {w : Nat} (v : BitVec w) : (v != 0) = decide (0 < v.toNat) := by
  rw [Bool.eq_iff_iff, bne_iff_ne, decide_eq_true_eq, Nat.pos_iff_ne_zero, ne_eq, ne_eq, ← BitVec.toNat_inj]
  rfl

theorem State.memRead_status (s : State) : s.memRead 0x4015 = s.apuStatusRead := rfl

/-- The bits of the status byte (62 R612). -/
theorem Apu.statusValue_getLsbD (u : Apu) (free : Byte) {i : Nat} (hi : i < 8) :
    (u.statusValue free).getLsbD i = match i with
      | 0 => decide (0 < u.pulse1.length.toNat)
      | 1 => decide (0 < u.pulse2.length.toNat)
      | 2 => decide (0 < u.tri.length.toNat)
      | 3 => decide (0 < u.noise.length.toNat)
      | 4 => decide (0 < u.dmc.remaining.toNat)
      | 5 => free.getLsbD 5
      | 6 => u.frameIrq
      | _ => u.dmcIrq := by
  simp only [Apu.statusValue, BitVec.getLsbD_or, getLsbD_flagBit _ _ hi, BitVec.getLsbD_and, bne_zero_eq_decide]
  interval_cases i <;> simp

/-! ### $4015 and $4017 written -/

theorem Dmc.startAddr_eq (d : Dmc) : d.startAddr = BitVec.ofNat 16 (0xC000 + d.addrReg.toNat * 64) := by
  unfold Dmc.startAddr
  bv_omega

theorem Dmc.sampleLength_eq (d : Dmc) : d.sampleLength = BitVec.ofNat 12 (d.lenReg.toNat * 16 + 1) := by
  unfold Dmc.sampleLength
  bv_omega

theorem State.memWrite_enable (s : State) (v : Byte) :
    s.memWrite 0x4015 v = { s with apu := s.apu.writeEnable v } := rfl

theorem State.memWrite_frameCounter (s : State) (v : Byte) :
    s.memWrite 0x4017 v = { s with apu := s.apu.writeFrameCounter v } := rfl

/-- Clearing a flag under a condition. -/
theorem and_not_eq_ite (b c : Bool) : (b && !c) = if c then false else b := by
  cases c <;> simp

/-! ### The channel registers -/

theorem periodLow_eq (period : BitVec 11) (v : Byte) : periodLow period v = lowWritten period v := by
  have kept : period.toNat &&& 0x700 = 2 ^ 8 * (period.toNat / 256) := by
    apply Nat.eq_of_testBit_eq
    intro i
    rw [Nat.testBit_and, show (0x700 : Nat) = 2 ^ 8 * (2 ^ 3 - 1) from rfl, Nat.testBit_two_pow_mul,
      Nat.testBit_two_pow_sub_one, show 256 = 2 ^ 8 from rfl, Nat.testBit_two_pow_mul, Nat.testBit_div_two_pow]
    by_cases lo : 8 ≤ i
    · by_cases hi : i - 8 < 3
      · simp [lo, hi]
      · have high : period.toNat.testBit i = false :=
          Nat.testBit_lt_two_pow (period.isLt.trans_le (Nat.pow_le_pow_right (by decide) (by omega)))
        simp [lo, hi, high]
    · simp [lo]
  apply BitVec.eq_of_toNat_eq
  have lt := period.isLt
  rw [periodLow, lowWritten, BitVec.toNat_or, BitVec.toNat_and, BitVec.toNat_setWidth, BitVec.toNat_ofNat]
  change (period.toNat &&& 0x700) ||| _ = _
  rw [kept, Nat.mod_eq_of_lt (by omega), ← Nat.two_pow_add_eq_or_of_lt v.isLt]
  omega

theorem periodHigh_eq (period : BitVec 11) (v : Byte) : periodHigh period v = highWritten period v := by
  have low : period.toNat &&& 0xFF = period.toNat % 256 := Nat.and_two_pow_sub_one_eq_mod period.toNat 8
  have high : v.toNat &&& 7 = v.toNat % 8 := Nat.and_two_pow_sub_one_eq_mod v.toNat 3
  apply BitVec.eq_of_toNat_eq
  rw [periodHigh, highWritten, BitVec.toNat_or, BitVec.toNat_and, BitVec.toNat_shiftLeft, BitVec.toNat_setWidth,
    BitVec.toNat_and, BitVec.toNat_ofNat, Nat.or_comm, Nat.shiftLeft_eq]
  change ((v.toNat &&& 7) % 2 ^ 11 * 2 ^ 8 % 2 ^ 11) ||| (period.toNat &&& 0xFF) = _
  rw [low, high, Nat.mod_eq_of_lt (by omega), Nat.mod_eq_of_lt (by omega), Nat.mul_comm,
    ← Nat.two_pow_add_eq_or_of_lt (by omega)]
  omega

theorem lengthOf_eq (v : Byte) : lengthOf v = BitVec.ofNat 8 (lengths.getD (v.toNat / 8) 0) := by
  have table : lengthTable = lengths.map (BitVec.ofNat 8) := rfl
  rw [lengthOf, table]
  exact List.getD_map lengths 0 (BitVec.ofNat 8)

/-- A field from bit `start` on, in natural numbers. -/
theorem extractLsb'_eq_ofNat (v : Byte) (start len : Nat) :
    v.extractLsb' start len = BitVec.ofNat len (v.toNat / 2 ^ start) := by
  rw [← Nat.shiftRight_eq_div_pow]
  rfl

theorem Pulse.writeVolume_eq (p : Pulse) (v : Byte) : p.writeVolume v = pulseWritten p 0 v := by
  rw [Pulse.writeVolume, extractLsb'_eq_ofNat]
  rfl

theorem Pulse.writeSweep_eq (p : Pulse) (v : Byte) : p.writeSweep v = pulseWritten p 1 v := by
  rw [Pulse.writeSweep, extractLsb'_eq_ofNat]
  rfl

theorem Pulse.writeLength_eq (p : Pulse) (v : Byte) : p.writeLength v = pulseWritten p 3 v := by
  rw [Pulse.writeLength, periodHigh_eq, lengthOf_eq]
  rfl

theorem Triangle.writeLength_eq (t : Triangle) (v : Byte) : t.writeLength v = { t with
    period := highWritten t.period v, length := loadedLength t.enabled t.length v, linReload := true } := by
  rw [Triangle.writeLength, periodHigh_eq, lengthOf_eq]
  rfl

theorem Noise.writeLength_eq (n : Noise) (v : Byte) : n.writeLength v = { n with
    length := loadedLength n.enabled n.length v, env := { n.env with start := true } } := by
  rw [Noise.writeLength, lengthOf_eq]
  rfl

/-- A write of a channel register changes the fields its rule names (62 R610, R614–R628). -/
theorem Apu.regWrite_channel (u : Apu) {r : Nat} (hr : r < 0x14) (v : Byte) :
    u.regWrite (BitVec.ofNat 16 (0x4000 + r)) v = channelWritten u r v := by
  interval_cases r <;>
    simp [Apu.regWrite, channelWritten, pulseWritten, Pulse.writeVolume_eq, Pulse.writeSweep_eq, Pulse.writeLength_eq,
      Triangle.writeLength_eq, Noise.writeLength_eq, periodLow_eq, Apu.writeDmcControl, Bool.and_comm]

/-- Settles O52. -/
theorem audioControl : Obligations.AudioControl := by
  refine ⟨fun s => ?read, fun s v => ?enable, fun s v => ?frameCounter, fun s r v hr => ?channel⟩
  case read =>
    have bit {i : Nat} (hi : i < 8) := s.apu.statusValue_getLsbD (Config.freeByte s.draws) hi
    exact ⟨rfl, bit (by decide), bit (by decide), bit (by decide), bit (by decide), bit (by decide), bit (by decide),
      bit (by decide), bit (by decide)⟩
  case enable =>
    rw [s.memWrite_enable, Apu.writeEnable, Dmc.restart, Dmc.startAddr_eq, Dmc.sampleLength_eq]
    simp only [enableLength, Bool.not_eq_eq_eq_not, Bool.not_true]
  case frameCounter =>
    rw [s.memWrite_frameCounter, Apu.writeFrameCounter, and_not_eq_ite]
  case channel =>
    rw [s.memWrite_channel (by bv_omega) (by bv_omega), Apu.regWrite_channel _ hr]

end Sys2Proof.Machine

/-! ## The frame sequencer and the length counters (O53, O54) -/

namespace Sys2Proof.Machine

/-! ### One cycle of the frame sequencer -/

/-- The audio chip with the sequencer's count one on and its flag set where the count says so (62 R640). -/
def Apu.counted (u : Apu) : Apu := { u with
  fs := { u.fs with
    counter := if u.fs.counter + 1 = (if u.fs.mode then 37282 else 29830) then 0 else u.fs.counter + 1 }
  frameIrq := u.frameIrq || (!u.fs.mode && u.fs.counter + 1 == 29829 && !u.fs.irqInhibit) }

/-- A cycle of the sequencer counts, and clocks nothing, a quarter frame, or a quarter and a half frame. -/
theorem Apu.frameSequencerCycle_cases {P : Apu → Prop} (u : Apu) (count : P u.counted)
    (quarter : P u.counted.quarterFrame) (half : P u.counted.quarterFrame.halfFrame) : P u.frameSequencerCycle :=
  iteInduction (fun _ => quarter) fun _ => iteInduction (fun _ => half) fun _ => count

theorem Apu.frameSequencerCycle_fs (u : Apu) : u.frameSequencerCycle.fs = u.counted.fs := by
  apply Apu.frameSequencerCycle_cases (P := fun t => t.fs = u.counted.fs) <;> rfl

theorem Apu.frameSequencerCycle_frameIrq (u : Apu) : u.frameSequencerCycle.frameIrq = u.counted.frameIrq := by
  apply Apu.frameSequencerCycle_cases (P := fun t => t.frameIrq = u.counted.frameIrq) <;> rfl

/-- An audio cycle is the sequencer's, then units that write neither it nor its flag (62 R630). -/
theorem State.apuCycle_fs (s : State) : s.apuCycle.apu.fs = s.apu.counted.fs := by
  rw [State.apuCycle, State.dmcReader_apu]
  exact Apu.frameSequencerCycle_fs { s.apu with apuCycles := s.apu.apuCycles + 1 }

theorem State.apuCycle_frameIrq (s : State) : s.apuCycle.apu.frameIrq = s.apu.counted.frameIrq := by
  rw [State.apuCycle, State.dmcReader_apu]
  exact Apu.frameSequencerCycle_frameIrq { s.apu with apuCycles := s.apu.apuCycles + 1 }

/-- The 4-step count goes round in 29830 cycles. -/
theorem Apu.counted_counter {u : Apu} (mode : u.fs.mode = false) (range : u.fs.counter < 29830) :
    u.counted.fs.counter = (u.fs.counter + 1) % 29830 := by
  change (if _ = (if u.fs.mode then 37282 else 29830) then 0 else _) = _
  rw [mode, if_neg Bool.false_ne_true]
  split <;> omega

/-- A cycle sets the flag exactly at count 29829 of an uninhibited 4-step sequence. -/
theorem Apu.counted_frameIrq (u : Apu) : u.counted.frameIrq = true ↔ u.frameIrq = true ∨
    (u.fs.mode = false ∧ u.fs.irqInhibit = false ∧ u.fs.counter + 1 = 29829) := by
  simp [Apu.counted]
  tauto

/-- Settles O53: by induction on the cycles, each of which sets the flag at its own count alone. -/
theorem frameIrqTiming : Obligations.FrameIrqTiming := by
  intro n
  induction n with
  | zero => simp [State.apuTicks]
  | succ n ih =>
    intro s range
    have next (mode : s.apu.fs.mode = false) := (congrArg FrameSequencer.counter s.apuCycle_fs).trans
      (Apu.counted_counter mode (range mode))
    have mode : s.apuCycle.apu.fs.mode = s.apu.fs.mode := by rw [s.apuCycle_fs]; rfl
    have inhibit : s.apuCycle.apu.fs.irqInhibit = s.apu.fs.irqInhibit := by
      rw [s.apuCycle_fs]; rfl
    rw [State.apuTicks, ih s.apuCycle (fun h => by rw [next (mode ▸ h)]; omega), s.apuCycle_frameIrq,
      Apu.counted_frameIrq, mode, inhibit, Nat.exists_lt_succ_left, or_assoc, ← and_or_left, ← and_or_left]
    refine or_congr_right (and_congr_right fun four => and_congr_right fun _ => ?_)
    have lt := range four
    rw [next four]
    refine or_congr (by omega) (exists_congr fun k => and_congr_right fun _ => ?_)
    omega

/-! ### Length counters -/

/-- A length counter that has not risen, and has not moved if halted. -/
structure LengthFalls (length : Byte) (halt : Bool) (length' : Byte) (halt' : Bool) : Prop where
  le : length'.toNat ≤ length.toNat
  halted : halt = true → length' = length
  halt_eq : halt' = halt

theorem LengthFalls.refl (length : Byte) (halt : Bool) : LengthFalls length halt length halt :=
  ⟨le_rfl, fun _ => rfl, rfl⟩

theorem LengthFalls.trans {l m n : Byte} {h i j : Bool} (a : LengthFalls l h m i) (b : LengthFalls m i n j) :
    LengthFalls l h n j :=
  ⟨b.le.trans a.le, fun halt => (b.halted (a.halt_eq.trans halt)).trans (a.halted halt), b.halt_eq.trans a.halt_eq⟩

/-- A half frame takes one from a counter that is neither halted nor zero (62 R643). -/
theorem clockLength_toNat (length : Byte) (halt : Bool) :
    (clockLength length halt).toNat = length.toNat - (if halt then 0 else 1) := by
  unfold clockLength
  split
  · next h =>
    rcases h with rfl | h
    · simp
    · simp [h]
  · next h =>
    rw [not_or, Bool.not_eq_true] at h
    rw [if_neg (ne_true_of_eq_false h.2)]
    have := h.1
    bv_omega

theorem LengthFalls.clock (length : Byte) (halt : Bool) : LengthFalls length halt (clockLength length halt) halt where
  le := (clockLength_toNat length halt).trans_le (Nat.sub_le _ _)
  halted h := if_pos (.inr h)
  halt_eq := rfl

/-- No length counter has risen, and no halted one has moved. -/
structure Apu.LengthsFall (u t : Apu) : Prop where
  pulse1 : LengthFalls u.pulse1.length u.pulse1.halt t.pulse1.length t.pulse1.halt
  pulse2 : LengthFalls u.pulse2.length u.pulse2.halt t.pulse2.length t.pulse2.halt
  tri : LengthFalls u.tri.length u.tri.control t.tri.length t.tri.control
  noise : LengthFalls u.noise.length u.noise.halt t.noise.length t.noise.halt

theorem Apu.LengthsFall.refl (u : Apu) : u.LengthsFall u := ⟨.refl _ _, .refl _ _, .refl _ _, .refl _ _⟩

theorem Apu.LengthsFall.trans {u t r : Apu} (a : u.LengthsFall t) (b : t.LengthsFall r) : u.LengthsFall r :=
  ⟨a.pulse1.trans b.pulse1, a.pulse2.trans b.pulse2, a.tri.trans b.tri, a.noise.trans b.noise⟩

theorem Apu.halfFrame_lengthsFall (u : Apu) : u.LengthsFall u.halfFrame :=
  ⟨.clock _ _, .clock _ _, .clock _ _, .clock _ _⟩

/-- The sequencer moves the lengths in half frames alone. -/
theorem Apu.frameSequencerCycle_lengthsFall (u : Apu) : u.LengthsFall u.frameSequencerCycle := by
  have count : u.LengthsFall u.counted := ⟨.refl _ _, .refl _ _, .refl _ _, .refl _ _⟩
  have quarter : u.LengthsFall u.counted.quarterFrame := ⟨.refl _ _, .refl _ _, .refl _ _, .refl _ _⟩
  exact u.frameSequencerCycle_cases count quarter (quarter.trans (Apu.halfFrame_lengthsFall _))

theorem Pulse.clockTimer_halt (p : Pulse) : p.clockTimer.halt = p.halt := by
  unfold Pulse.clockTimer
  split <;> rfl

theorem Triangle.clockTimer_control (t : Triangle) : t.clockTimer.control = t.control := by
  unfold Triangle.clockTimer
  split <;> rfl

theorem Noise.clockTimer_halt (n : Noise) : n.clockTimer.halt = n.halt := by
  unfold Noise.clockTimer
  split <;> rfl

theorem Pulse.clockTimer_lengthFalls (p : Pulse) :
    LengthFalls p.length p.halt p.clockTimer.length p.clockTimer.halt := by
  rw [Pulse.clockTimer_length, Pulse.clockTimer_halt]
  exact .refl _ _

/-- The timers move no length. -/
theorem Apu.timers_lengthsFall (u : Apu) (even : Bool) : u.LengthsFall { u with
    tri := u.tri.clockTimer
    pulse1 := if even then u.pulse1.clockTimer else u.pulse1
    pulse2 := if even then u.pulse2.clockTimer else u.pulse2
    noise := u.noise.clockTimer
    dmc := u.dmc.outputUnit } where
  pulse1 := by
    cases even
    · exact .refl _ _
    · exact u.pulse1.clockTimer_lengthFalls
  pulse2 := by
    cases even
    · exact .refl _ _
    · exact u.pulse2.clockTimer_lengthFalls
  tri := by
    rw [Triangle.clockTimer_length, Triangle.clockTimer_control]
    exact .refl _ _
  noise := by
    rw [Noise.clockTimer_length, Noise.clockTimer_halt]
    exact .refl _ _

theorem Apu.clockUnits_lengthsFall (u : Apu) : u.LengthsFall u.clockUnits := by
  have tick : u.LengthsFall { u with apuCycles := u.apuCycles + 1 } := ⟨.refl _ _, .refl _ _, .refl _ _, .refl _ _⟩
  exact tick.trans ((Apu.frameSequencerCycle_lengthsFall _).trans (Apu.timers_lengthsFall _ _))

theorem State.apuCycle_lengthsFall (s : State) : s.apu.LengthsFall s.apuCycle.apu := by
  refine s.apu.clockUnits_lengthsFall.trans ?_
  rw [State.apuCycle, State.dmcReader_apu]
  exact ⟨.refl _ _, .refl _ _, .refl _ _, .refl _ _⟩

theorem State.apuTicks_lengthsFall (n : Nat) (s : State) : s.apu.LengthsFall (State.apuTicks n s).apu := by
  induction n generalizing s with
  | zero => exact .refl _
  | succ n ih => exact s.apuCycle_lengthsFall.trans (ih s.apuCycle)

/-- Settles O54: half frames clock the lengths, and by induction on the cycles nothing else moves them. -/
theorem lengthCounters : Obligations.LengthCounters := by
  refine ⟨fun u => ⟨clockLength_toNat _ _, clockLength_toNat _ _, clockLength_toNat _ _, clockLength_toNat _ _⟩,
    fun n s => ?_⟩
  obtain ⟨pulse1, pulse2, tri, noise⟩ := s.apuTicks_lengthsFall n
  exact ⟨pulse1.le, pulse2.le, tri.le, noise.le, pulse1.halted, pulse2.halted, tri.halted, noise.halted⟩

/-! ## The delta channel's reader (O55) -/

theorem Dmc.restart_eq (d : Dmc) : d.restart = { d with
    curAddr := BitVec.ofNat 16 (0xC000 + d.addrReg.toNat * 64)
    remaining := BitVec.ofNat 12 (d.lenReg.toNat * 16 + 1) } := by
  rw [Dmc.restart, Dmc.startAddr_eq, Dmc.sampleLength_eq]

/-- The address after a fetch, in natural numbers (62 R670). -/
theorem Dmc.nextAddr_eq (d : Dmc) : (if d.curAddr = 0xFFFF then 0x8000 else d.curAddr + 1)
    = if d.curAddr.toNat = 65535 then 0x8000 else d.curAddr + 1 := by
  have h : d.curAddr = 0xFFFF ↔ d.curAddr.toNat = 65535 := (BitVec.toNat_inj (y := 0xFFFF)).symm
  simp only [h]

theorem State.dmcReader_idle {s : State} (h : s.apu.dmc.buffer ≠ none ∨ s.apu.dmc.remaining = 0) :
    s.dmcReader = s := by
  rw [State.dmcReader, if_neg]
  rcases h with h | h <;> simp [Dmc.wantsByte, h]

theorem State.dmcReader_fetch {s : State} (empty : s.apu.dmc.buffer = none) (left : s.apu.dmc.remaining ≠ 0) :
    s.dmcReader = { s with
      apu := s.apu.dmcTakeByte (s.peek s.apu.dmc.curAddr).1
      draws := (s.peek s.apu.dmc.curAddr).2.draws } := by
  rw [State.dmcReader, if_pos]
  · rfl
  · rw [Dmc.wantsByte, empty, bne_iff_ne.mpr left]
    rfl

/-- A byte taken that was not the last (62 R670). -/
theorem Apu.dmcTakeByte_more {u : Apu} (h : 1 < u.dmc.remaining.toNat) (v : Byte) :
    u.dmcTakeByte v = { u with dmc := { u.dmc with
      buffer := some v
      curAddr := if u.dmc.curAddr.toNat = 65535 then 0x8000 else u.dmc.curAddr + 1
      remaining := u.dmc.remaining - 1 } } := by
  have more : u.dmc.remaining - 1 ≠ 0 := by bv_omega
  rw [Apu.dmcTakeByte, Dmc.nextAddr_eq]
  exact if_neg more

/-- The last byte taken: the sample restarts, or the interrupt flag is raised if enabled (62 R670). -/
theorem Apu.dmcTakeByte_last {u : Apu} (h : u.dmc.remaining = 1) (v : Byte) : u.dmcTakeByte v =
    let d : Dmc := { u.dmc with
      buffer := some v
      curAddr := if u.dmc.curAddr.toNat = 65535 then 0x8000 else u.dmc.curAddr + 1
      remaining := 0 }
    if u.dmc.loop then { u with dmc := d.restart }
    else { u with dmc := d, dmcIrq := if u.dmc.irqEnable then true else u.dmcIrq } := by
  have none : u.dmc.remaining - 1 = 0 := by rw [h]; rfl
  have irq : (if u.dmc.irqEnable then true else u.dmcIrq) = (u.dmcIrq || u.dmc.irqEnable) := by
    cases u.dmc.irqEnable <;> simp
  rw [irq, Apu.dmcTakeByte, Dmc.nextAddr_eq, none]
  rfl

theorem Apu.dmcTakeByte_buffer (u : Apu) (v : Byte) : (u.dmcTakeByte v).dmc.buffer = some v := by
  unfold Apu.dmcTakeByte
  dsimp only
  repeat' split
  all_goals rfl

/-- Settles O55: the reader is idle, or takes a byte that is or is not the last. -/
theorem deltaFetch : Obligations.DeltaFetch := by
  intro s t d v
  have fetched (empty : d.buffer = none) (left : d.remaining ≠ 0) : t.apu = s.apu.dmcTakeByte v :=
    congrArg State.apu (State.dmcReader_fetch empty left)
  refine ⟨State.dmcReader_idle, fun empty left => ?frame, fun empty more => ?more, fun empty last loop => ?loop,
    fun empty last once => ?once⟩
  case frame =>
    have e : t = { s with apu := s.apu.dmcTakeByte v, draws := (s.peek d.curAddr).2.draws } :=
      State.dmcReader_fetch empty left
    rw [e]
    exact ⟨rfl, Apu.dmcTakeByte_buffer _ _⟩
  case more =>
    rw [fetched empty (by bv_omega), Apu.dmcTakeByte_more more]
  case loop =>
    rw [fetched empty (by rw [last]; decide), Apu.dmcTakeByte_last last, if_pos loop, Dmc.restart_eq]
  case once =>
    rw [fetched empty (by rw [last]; decide), Apu.dmcTakeByte_last last, if_neg (ne_true_of_eq_false once)]

end Sys2Proof.Machine

/-! ## Reset (O58) -/

namespace Sys2Proof.Machine

open Sys2Proof.Ref

/-- A read of the PRG-ROM window may take a draw, and changes nothing else (20 R81). -/
theorem State.memRead_prgWindow_state (s : State) {a : Addr} (lo : 0x8000#16 ≤ a) :
    ∃ draws, (s.memRead a).2 = { s with draws := draws } := by
  rw [s.memRead_prgWindow lo, State.prgRead]
  split <;> exact ⟨_, rfl⟩

theorem State.read16_resetVector (s : State) : ∃ draws, (s.read16 resetVector).2 = { s with draws := draws } := by
  obtain ⟨d, low⟩ := s.memRead_prgWindow_state (a := resetVector) (by decide)
  obtain ⟨d', high⟩ := (s.memRead resetVector).2.memRead_prgWindow_state (a := resetVector + 1) (by decide)
  exact ⟨d', high.trans (by rw [low])⟩

/-- A reset leaves the reset chips with PC from the vector; its reads may take draws (70 R800–R808). -/
theorem State.hardReset_eq {s : State} {c : Cartridge} (hc : s.cart = some c) : ∃ draws, s.hardReset =
    .next { s.resetChips c with pc := ((s.resetChips c).read16 resetVector).1, draws := draws } := by
  obtain ⟨draws, e⟩ := (s.resetChips c).read16_resetVector
  refine ⟨draws, ?_⟩
  rw [State.hardReset, hc]
  dsimp only
  rw [e]
  rfl

/-- PC is the word the bus gives at the vector; the processor's registers do not matter to the reads (70 R802). -/
theorem State.read16_of_reads {s u : State} (h : ∃ c, u = s.withCpu c) {lo hi : Byte × State}
    (low : u.memRead 0xFFFC = lo) (high : lo.2.memRead 0xFFFD = hi) :
    (s.read16 resetVector).1.toNat = 256 * hi.1.toNat + lo.1.toNat := by
  obtain ⟨c, rfl⟩ := h
  rw [State.memRead_withCpu] at low
  subst low
  rw [State.memRead_withCpu] at high
  subst high
  exact wordOf_toNat _ _

/-- Under mapper 0 the vector is two bytes of PRG-ROM. -/
theorem State.read16_nrom {s : State} {c : Cartridge} (hc : s.cart = some c) (h : c.mapperId = 0) :
    (s.read16 resetVector).1.toNat = 256 * (c.prgRom.read (0x7FFD % c.prgSize)).toNat
      + (c.prgRom.read (0x7FFC % c.prgSize)).toNat := by
  rw [State.read16, State.memRead_nrom hc h (a := resetVector) (by decide),
    State.memRead_nrom hc h (a := resetVector + 1) (by decide), wordOf_toNat]
  rfl

theorem Cartridge.reset_chrRom {c : Cartridge} (rom : c.chrIsRam = false) (stamp : Nat) :
    (c.reset stamp).chr = c.chr := if_neg (ne_true_of_eq_false rom)

/-- Settles O58: the reset chips' fields are literals, and the vector is two bus reads. -/
theorem hardReset : Obligations.HardReset := by
  refine ⟨fun s c hc => ?_, fun s hc => by rw [State.hardReset, hc]⟩
  obtain ⟨draws, e⟩ := State.hardReset_eq hc
  refine ⟨_, c.reset (s.draws + 4), e, rfl, rfl, rfl, rfl, rfl, State.reset_p_toByte, rfl, rfl, rfl,
    Memory.read_empty, Memory.read_empty, rfl, rfl, rfl, rfl, fun rom => c.reset_chrRom rom _,
    fun lo hi low high => ?_, fun nrom => ?_⟩
  · exact State.read16_of_reads ⟨_, rfl⟩ low high
  · exact State.read16_nrom (c := c.reset (s.draws + 4)) rfl nrom

/-! ## Cartridge images (O56, O57) -/

/-- The cartridge of an image that parses (63 R701–R707), in the statements' terms. -/
def imageCartridge (bytes : List Byte) (stamp : Nat) : Cartridge where
  prgSize := prgBytes bytes
  prgRom := Memory.ofBytes (slice bytes (prgOffset bytes) (prgBytes bytes))
  chrSize := if chrBytes bytes = 0 then 8192 else chrBytes bytes
  chr := if chrBytes bytes = 0 then ⟨.drawn stamp, []⟩
    else Memory.ofBytes (slice bytes (prgOffset bytes + prgBytes bytes) (chrBytes bytes))
  chrIsRam := decide (chrBytes bytes = 0)
  mirroring := headerMirroring (bytes.getD 6 0)
  battery := (bytes.getD 6 0).getLsbD 1
  headerVariant := (bytes.getD 7 0).extractLsb' 2 2
  mapperId := (bytes.getD 7 0).extractLsb' 4 4 ++ (bytes.getD 6 0).extractLsb' 4 4
  regs := powerOnRegs ((bytes.getD 7 0).extractLsb' 4 4 ++ (bytes.getD 6 0).extractLsb' 4 4)

/-- `ParseRom` with its sizes and offset named (63 R701, R702, R704). -/
theorem parseRom_eq (bytes : List Byte) (stamp : Nat) : parseRom bytes stamp =
    if bytes.length < 16 then .error .tooShort
    else if bytes.take 4 ≠ magic then .error .badMagic
    else if bytes.length < prgOffset bytes + prgBytes bytes + chrBytes bytes then .error .truncated
    else .ok (imageCartridge bytes stamp) := by
  have prg : (bytes.getD 4 0).toNat * 16384 = prgBytes bytes := Nat.mul_comm _ _
  have chr : (bytes.getD 5 0).toNat * 8192 = chrBytes bytes := Nat.mul_comm _ _
  have off : (16 + if (bytes.getD 6 0).getLsbD 2 then 512 else 0) = prgOffset bytes := by
    unfold prgOffset
    split <;> rfl
  unfold parseRom
  dsimp only
  rw [prg, chr, off]
  rfl

section Images

variable {bytes : List Byte} (long : 16 ≤ bytes.length) (signed : bytes.take 4 = magic)
  (whole : prgOffset bytes + prgBytes bytes + chrBytes bytes ≤ bytes.length)
include long signed whole

theorem parseRom_image (stamp : Nat) : parseRom bytes stamp = .ok (imageCartridge bytes stamp) := by
  rw [parseRom_eq, if_neg (by omega), if_neg (not_not.mpr signed), if_neg (by omega)]

/-- Bytes after the CHR data are ignored (63 R702). -/
theorem parseRom_append (extra : List Byte) (stamp : Nat) : parseRom (bytes ++ extra) stamp = parseRom bytes stamp := by
  have header {k : Nat} (hk : k < 16) : (bytes ++ extra).getD k 0 = bytes.getD k 0 :=
    List.getD_append _ _ _ _ (by omega)
  have prg : prgBytes (bytes ++ extra) = prgBytes bytes := by rw [prgBytes, prgBytes, header (by decide)]
  have chr : chrBytes (bytes ++ extra) = chrBytes bytes := by rw [chrBytes, chrBytes, header (by decide)]
  have off : prgOffset (bytes ++ extra) = prgOffset bytes := by rw [prgOffset, prgOffset, header (by decide)]
  have data {start n : Nat} (h : start + n ≤ bytes.length) :
      slice (bytes ++ extra) start n = slice bytes start n := by
    rw [slice, slice, List.drop_append_of_le_length (by omega), List.take_append_of_le_length (by simp; omega)]
  have sign : (bytes ++ extra).take 4 = bytes.take 4 := List.take_append_of_le_length (by omega)
  have cartridge : imageCartridge (bytes ++ extra) stamp = imageCartridge bytes stamp := by
    unfold imageCartridge
    rw [prg, chr, off, header (by decide), header (by decide), data (by omega), data (by omega)]
  rw [parseRom_image long signed whole, parseRom_eq, List.length_append, sign, prg, chr, off, cartridge,
    if_neg (by omega), if_neg (not_not.mpr signed), if_neg (by omega)]

end Images

theorem State.load_of_error {bytes : List Byte} {s : State} {e : Fault} (h : parseRom bytes s.draws = .error e) :
    State.load bytes s = .fault e := by
  rw [State.load, h]

/-- Settles O56: the tests of `ParseRom` in their order, and the parts of an image it reads. -/
theorem parseErrors : Obligations.ParseErrors := by
  intro bytes s
  refine ⟨fun short => State.load_of_error ?_, fun long unsigned => State.load_of_error ?_,
    fun long signed cut => State.load_of_error ?_,
    fun long signed whole => ⟨_, parseRom_image long signed whole s.draws, fun extra => ?_⟩⟩
  · rw [parseRom_eq, if_pos short]
  · rw [parseRom_eq, if_neg (by omega), if_pos unsigned]
  · rw [parseRom_eq, if_neg (by omega), if_neg (not_not.mpr signed), if_pos cut]
  · rw [State.load, State.load, parseRom_append long signed whole]

/-! ### An image of mapper 0 -/

/-- A byte of the data an image declares (63 R705). -/
theorem read_slice {bytes : List Byte} {start n k : Nat} (hk : k < n) :
    (Memory.ofBytes (slice bytes start n)).read k = bytes.getD (start + k) 0 := by
  rw [Memory.read_ofBytes, slice, List.getD_eq_getElem?_getD, List.getD_eq_getElem?_getD, List.getElem?_take_of_lt hk,
    List.getElem?_drop]

theorem imageCartridge_nrom {bytes : List Byte} (low : (bytes.getD 6 0).toNat / 16 = 0)
    (high : (bytes.getD 7 0).toNat / 16 = 0) (stamp : Nat) : (imageCartridge bytes stamp).mapperId = 0 := by
  have nibble {v : Byte} (h : v.toNat / 16 = 0) : v.extractLsb' 4 4 = 0 := by
    apply BitVec.eq_of_toNat_eq
    rw [BitVec.extractLsb'_toNat, Nat.shiftRight_eq_div_pow]
    simp [h]
  rw [imageCartridge, nibble low, nibble high]
  rfl

/-- Mapper 0 asks for a PRG bank, and every declared size is a multiple of its banks (63 R708). -/
theorem constructCartridge_image {bytes : List Byte} {stamp : Nat} (nrom : (imageCartridge bytes stamp).mapperId = 0) :
    constructCartridge (imageCartridge bytes stamp) =
      if prgBytes bytes = 0 then .error (.badSize 0) else .ok (imageCartridge bytes stamp) := by
  have prg : (imageCartridge bytes stamp).prgSize % prgGranularity (imageCartridge bytes stamp).mapperId = 0 := by
    rw [nrom]
    exact Nat.mul_mod_right 16384 _
  have chr : (imageCartridge bytes stamp).chrSize % chrGranularity (imageCartridge bytes stamp).mapperId = 0 := by
    rw [nrom]
    change (if chrBytes bytes = 0 then 8192 else chrBytes bytes) % 8192 = 0
    split
    · rfl
    · exact Nat.mul_mod_right 8192 _
  rw [constructCartridge, if_neg fun h => h.1 nrom]
  by_cases empty : (imageCartridge bytes stamp).prgSize = 0
  · rw [if_pos (.inl empty), if_pos (show prgBytes bytes = 0 from empty), empty]
  · rw [if_neg (not_or.mpr ⟨empty, not_not.mpr prg⟩), if_neg (not_not.mpr chr),
      if_neg (show prgBytes bytes ≠ 0 from empty)]

/-- Settles O57: the construction of the parsed cartridge, its reset, and the slices its memories hold. -/
theorem loadBoots : Obligations.LoadBoots := by
  intro bytes s long signed whole low high
  have nrom := imageCartridge_nrom low high s.draws
  have parsed := parseRom_image long signed whole s.draws
  have built := constructCartridge_image nrom
  refine ⟨fun empty => ?_, fun banks => ?_⟩
  · rw [if_pos empty] at built
    rw [State.load, parsed]
    dsimp only
    rw [built]
  rw [if_neg banks] at built
  have load : State.load bytes s =
      State.hardReset { s with cart := some (imageCartridge bytes s.draws), draws := s.draws + 1 } := by
    rw [State.load, parsed]
    dsimp only
    rw [built]
  obtain ⟨draws, reset⟩ := State.hardReset_eq
    (s := { s with cart := some (imageCartridge bytes s.draws), draws := s.draws + 1 }) rfl
  have prg {k : Nat} (hk : k < prgBytes bytes) :
      (imageCartridge bytes s.draws).prgRom.read k = bytes.getD (prgOffset bytes + k) 0 := read_slice hk
  refine ⟨_, _, _, _, load.trans reset, rfl, parsed, reset, ?vector, nrom, rfl, fun k hk => prg hk, rfl, rfl,
    fun k hk => ?chr, rfl, rfl, ?variant⟩
  case vector =>
    have below (k : Nat) : k % prgBytes bytes < prgBytes bytes := Nat.mod_lt _ (Nat.pos_of_ne_zero banks)
    rw [← prg (below _), ← prg (below _)]
    exact State.read16_nrom (c := (imageCartridge bytes s.draws).reset (s.draws + 1 + 4)) rfl nrom
  case chr =>
    have declared : chrBytes bytes ≠ 0 := by omega
    change (Cartridge.reset (imageCartridge bytes s.draws) (s.draws + 1 + 4)).chr.read k = _
    have chr : (imageCartridge bytes s.draws).chr =
        Memory.ofBytes (slice bytes (prgOffset bytes + prgBytes bytes) (chrBytes bytes)) := if_neg declared
    rw [Cartridge.reset_chrRom (decide_eq_false declared), chr]
    exact read_slice hk
  case variant =>
    change (BitVec.extractLsb' 2 2 _).toNat = _
    rw [BitVec.extractLsb'_toNat, Nat.shiftRight_eq_div_pow]

/-! ## Joypads (O59) -/

/-! ### Reads of a port -/

/-- The port of a pad: $4016 or $4017 (63 R742). -/
def padPort (second : Bool) : Addr := if second then 0x4017 else 0x4016

theorem State.memRead_padPort (s : State) (second : Bool) : s.memRead (padPort second) = s.padRead second := by
  cases second <;> rfl

theorem Pads.readValue_bit (p : Pads) (second : Bool) (free : Byte) :
    (p.readValue second free).getLsbD 0 = p.readBit second := by
  rw [Pads.readValue, BitVec.getLsbD_or, BitVec.getLsbD_and]
  cases p.readBit second <;> simp

theorem State.memRead_padPort_bit (s : State) (second : Bool) :
    (s.memRead (padPort second)).1.getLsbD 0 = s.pads.readBit second := by
  rw [State.memRead_padPort]
  exact Pads.readValue_bit _ _ _

/-- Reads of a port act on the pads alone. -/
theorem afterReads_pads (second : Bool) (n : Nat) (s : State) :
    (afterReads (padPort second) n s).pads = (fun p => p.readEffect second)^[n] s.pads := by
  induction n generalizing s with
  | zero => rfl
  | succ n ih => rw [afterReads, ih, State.memRead_padPort]; rfl

/-! ### Pads under the strobe and without it -/

/-- Under the strobe a read counts nothing (63 R742). -/
theorem Pads.readEffect_strobed {p : Pads} (h : p.strobe = true) (second : Bool) : p.readEffect second = p := by
  rw [Pads.readEffect, h]
  rfl

/-- The pad of a port after `n` reads of it since the latch: the latched copy, `n` of its 8 bits read. -/
structure Pads.Latched (second : Bool) (buttons : Byte) (n : Nat) (p : Pads) : Prop where
  released : p.strobe = false
  shift : (p.pad second).shift = buttons
  count : (p.pad second).count = min n 8

theorem Pads.pad_setPad (p : Pads) (second : Bool) (q : Pad) : (p.setPad second q).pad second = q := by
  cases second <;> rfl

theorem Pads.pad_setPad_other (p : Pads) (second : Bool) (q : Pad) :
    (p.setPad (!second) q).pad second = p.pad second := by
  cases second <;> rfl

theorem Pads.setPad_strobe (p : Pads) (second : Bool) (q : Pad) : (p.setPad second q).strobe = p.strobe := by
  cases second <;> rfl

section Latched

variable {second : Bool} {buttons : Byte} {n : Nat} {p : Pads}

/-- A read of the port takes the next bit of the latched copy. -/
theorem Pads.Latched.read (h : p.Latched second buttons n) : (p.readEffect second).Latched second buttons (n + 1) := by
  obtain ⟨released, shift, count⟩ := h
  unfold Pads.readEffect
  dsimp only
  split
  · next more =>
    simp only [released, Bool.not_false, Bool.true_and, decide_eq_true_eq] at more
    refine ⟨(Pads.setPad_strobe _ _ _).trans released, ?_, ?_⟩
    · rwa [Pads.pad_setPad]
    · rw [Pads.pad_setPad]
      dsimp only
      omega
  · next done =>
    simp only [released, Bool.not_false, Bool.true_and, decide_eq_true_eq] at done
    exact ⟨released, shift, by omega⟩

/-- A read of the other port leaves this one. -/
theorem Pads.Latched.readOther (h : p.Latched second buttons n) :
    (p.readEffect (!second)).Latched second buttons n := by
  obtain ⟨released, shift, count⟩ := h
  unfold Pads.readEffect
  dsimp only
  split
  · exact ⟨(Pads.setPad_strobe _ _ _).trans released, by rwa [Pads.pad_setPad_other],
      by rwa [Pads.pad_setPad_other]⟩
  · exact ⟨released, shift, count⟩

theorem Pads.Latched.reads (h : p.Latched second buttons n) (k : Nat) :
    ((fun p => p.readEffect second)^[k] p).Latched second buttons (n + k) := by
  induction k generalizing n p with
  | zero => exact h
  | succ k ih =>
    rw [Function.iterate_succ_apply, ← Nat.add_assoc, Nat.add_right_comm]
    exact ih h.read

theorem Pads.Latched.readsOther (h : p.Latched second buttons n) (k : Nat) :
    ((fun p => p.readEffect (!second))^[k] p).Latched second buttons n := by
  induction k generalizing p with
  | zero => exact h
  | succ k ih => exact ih h.readOther

/-- The bit a read gives: the buttons in their order and then ones (63 R742). -/
theorem Pads.Latched.readBit (h : p.Latched second buttons n) :
    p.readBit second = if n < 8 then buttons.getLsbD n else true := by
  obtain ⟨released, shift, count⟩ := h
  rw [Pads.readBit, released, shift, count]
  by_cases more : n < 8
  · rw [if_pos more, Nat.min_eq_left more.le]
    exact if_pos more
  · rw [if_neg more, Nat.min_eq_right (Nat.le_of_not_lt more)]
    rfl

end Latched

/-! ### The strobe's two writes -/

theorem State.memWrite_strobe (s : State) (v : Byte) :
    s.memWrite 0x4016 v = { s with pads := s.pads.strobeWrite v } := rfl

theorem Pads.strobeWrite_on (p : Pads) {v : Byte} (on : v.getLsbD 0 = true) :
    p.strobeWrite v = ⟨true, p.pad0.latch, p.pad1.latch⟩ := by
  rw [Pads.strobeWrite, on, Bool.or_true, if_pos rfl]

theorem Pads.strobeWrite_off {v : Byte} (off : v.getLsbD 0 = false) (a b : Pad) :
    (Pads.mk true a b).strobeWrite v = ⟨false, a.latch, b.latch⟩ := by
  rw [Pads.strobeWrite, off]
  rfl

/-- Settles O59: the strobe latches both pads, and the reads of each port count for its own pad. -/
theorem joypadSequence : Obligations.JoypadSequence := by
  intro s hi lo second j k on off port held latched
  have ports (b : Bool) : port b = padPort b := rfl
  have strobed : held.pads = ⟨true, s.pads.pad0.latch, s.pads.pad1.latch⟩ := s.pads.strobeWrite_on on
  constructor
  · have released : (held.memWrite 0x4016 lo).pads.Latched second (s.pads.pad second).buttons 0 := by
      rw [held.memWrite_strobe, strobed, Pads.strobeWrite_off off]
      cases second <;> exact ⟨rfl, rfl, rfl⟩
    have other : latched.pads.Latched second (s.pads.pad second).buttons 0 := by
      rw [show latched.pads = _ from afterReads_pads (!second) j _]
      exact released.readsOther j
    rw [ports, State.memRead_padPort_bit, afterReads_pads, (other.reads k).readBit, Nat.zero_add]
  · rw [ports, State.memRead_padPort_bit, afterReads_pads, strobed,
      Function.iterate_fixed (Pads.readEffect_strobed rfl second)]
    cases second <;> rfl

end Sys2Proof.Machine
